-- ==== Sys2Proof/Word.lean ====
section
/-! DEFINITION. The word types of the SPF: host registers are 32 bits, data bytes 8, counts and
operands 16 (00_scope.md R10, R15). A level of a line or pin is a Bool, true for electrical 1. -/

namespace Sys2Proof

/-- A host register or command word (10_state.md R40). -/
abbrev Word := BitVec 32

/-- A data byte; all byte values are unsigned (00_scope.md R15). -/
abbrev Byte := BitVec 8

/-- A count, operand or divider (00_scope.md R10). -/
abbrev Half := BitVec 16

/-- An electrical level of a line: true is 1, false is 0 (10_state.md R31). -/
abbrev Level := Bool

end Sys2Proof
end

