-- ==== Sys2Proof/Config.lean ====
section
/-! DEFINITION. What is fixed when a block is built (00_scope.md R5, R6, R10), and the free values of the
model: a byte of the frame buffer that nothing has written since the last reset, and a data bit that the clock
timing does not vouch for. -/

namespace Sys2Proof

/-- Parameter ROLE (00_scope.md R5): the bus role of an instance. -/
inductive Role where
  | initiator
  | responder
  deriving DecidableEq, Repr

/-- Parameter REV (00_scope.md R6): REV_A has a 16-bit response prefix, REV_B an 8-bit one. -/
inductive Rev where
  | revA
  | revB
  deriving DecidableEq, Repr

/-- Parameter BUF_SIZE (00_scope.md R10): a model may take any of these five sizes. -/
inductive BufSize where
  | b64
  | b128
  | b256
  | b512
  | b1024
  deriving DecidableEq, Repr

/-- The frame buffer's size in bytes. -/
def BufSize.bytes : BufSize → Nat
  | .b64 => 64
  | .b128 => 128
  | .b256 => 256
  | .b512 => 512
  | .b1024 => 1024

/-- The build parameters of one block (00_scope.md R10). `hsAssert` is HS_ASSERT_LEVEL; the fields
ending in Rst or RstB are the reset values the spec leaves OPEN. -/
structure Config where
  role : Role
  rev : Rev
  hsAssert : Level
  bufSize : BufSize
  syncStages : Nat
  clkdivRst : Half
  tickdivRst : Half
  byteSettleRst : Half
  prepollRstB : Half
  extSettleRst : Half
  deriving DecidableEq, Repr

/-- What a build must satisfy: CFG.SYNC_STAGES is a 4-bit field (10_state.md R45) and a synchroniser
has at least one stage (R64). -/
def Config.wf (c : Config) : Bool :=
  decide (1 ≤ c.syncStages) && decide (c.syncStages ≤ 15)

/-- The build that State.reset takes for a role. HS_ASSERT_LEVEL, BUF_SIZE and SYNC_STAGES are the
spec's defaults (00_scope.md R10). DESIGN CHOICE (log 1), unsafe: REV_B, both dividers 47 (the spec's own
48 MHz example, 70_reset_and_hazards.md R395), and each OPEN delay one tick. -/
def Config.default (r : Role) : Config where
  role := r
  rev := .revB
  hsAssert := false
  bufSize := .b256
  syncStages := 2
  clkdivRst := 47#16
  tickdivRst := 47#16
  byteSettleRst := 1#16
  prepollRstB := 1#16
  extSettleRst := 1#16

/-- Free value (log 2), safe: the byte at a window offset of a block's frame buffer that nothing has written
since that block's reset number `epoch`. 10_state.md R60: the contents after reset are any value; no two blocks
share them (60_exceptions.md R356). -/
opaque Config.freeByte (block epoch offset : Nat) : Byte

/-- Free value (log 6, log 17), safe: draw number n of a data bit that a block samples while DATA has no single driver
(20_memory.md R104; 60_exceptions.md R356) or against 70_reset_and_hazards.md R380 (93_implementation_defined.md I1,
I2 and I10: any value). -/
opaque Config.slipBit (n : Nat) : Level

end Sys2Proof
end

