-- ==== Sys2Proof/Syntax.lean ====
section
/-! DEFINITION. The 18 operations of the block, one constructor per row of spec/opcode_table.json
(30_encoding.md R122). Every command word has the one format CMD32 (R120), so every constructor carries
ARG and LVL: where an operation ignores one, its bits are "don't care" (R123) but are latched all the same
(R124). -/

namespace Sys2Proof

/-- An operation as a host submits it: `arg` is ARG[31:16], `lvl` is LVL[8] (30_encoding.md R120). -/
inductive Instr where
  /-- NOP, R236, 41_handshake.md: it does nothing. -/
  | nop (arg : Half) (lvl : Bool)
  /-- WRITE_BYTE, R180, 40_transport.md: send DATA.BYTE, with no handshake. -/
  | writeByte (arg : Half) (lvl : Bool)
  /-- READ_BYTE, R181, 40_transport.md: receive one byte into DATA.BYTE, with no handshake. -/
  | readByte (arg : Half) (lvl : Bool)
  /-- WAIT_RISE, R230, 41_handshake.md: wait for a rising edge of the peer's handshake line. -/
  | waitRise (arg : Half) (lvl : Bool)
  /-- WAIT_FALL, R231, 41_handshake.md: wait for a falling edge of the peer's handshake line. -/
  | waitFall (arg : Half) (lvl : Bool)
  /-- WAIT_HIGH, R232, 41_handshake.md: wait until the peer's handshake line is high. -/
  | waitHigh (arg : Half) (lvl : Bool)
  /-- WAIT_LOW, R233, 41_handshake.md: wait until the peer's handshake line is low. -/
  | waitLow (arg : Half) (lvl : Bool)
  /-- HS_DRIVE, R234, 41_handshake.md: drive the own handshake line to the level LVL. -/
  | hsDrive (arg : Half) (lvl : Bool)
  /-- DATA_ACQUIRE, R182, 40_transport.md: take ownership of the data line. -/
  | dataAcquire (arg : Half) (lvl : Bool)
  /-- DATA_RELEASE, R183, 40_transport.md: give up ownership of the data line. -/
  | dataRelease (arg : Half) (lvl : Bool)
  /-- DELAY, R235, 41_handshake.md: wait ARG ticks. -/
  | delay (arg : Half) (lvl : Bool)
  /-- XPORT_RESET, R184, 40_transport.md: reset the transport state. -/
  | xportReset (arg : Half) (lvl : Bool)
  /-- CKSUM_COMPUTE, R305, 43_checksum.md: sum ARG buffer bytes and compare with DATA.BYTE. -/
  | cksumCompute (arg : Half) (lvl : Bool)
  /-- SEND_CMD, R250, 42_framer.md: send buf[0..3] and check the responder's ack. -/
  | sendCmd (arg : Half) (lvl : Bool)
  /-- READ_RESP, R260, 42_framer.md: read a length-prefixed response of at most ARG bytes. -/
  | readResp (arg : Half) (lvl : Bool)
  /-- EXT_PACKET, R270, 42_framer.md: the two-stage extended frame. -/
  | extPacket (arg : Half) (lvl : Bool)
  /-- RSP_READ_CKSUM, R280, 42_framer.md: read ARG bytes and send their checksum. -/
  | rspReadCksum (arg : Half) (lvl : Bool)
  /-- RSP_WRITE_CKSUM, R290, 42_framer.md: send prefix, ARG bytes and their checksum. -/
  | rspWriteCksum (arg : Half) (lvl : Bool)
  deriving DecidableEq, Repr

/-- The word's ARG field (30_encoding.md R121: zero-extended, never scaled). -/
def Instr.arg : Instr → Half
  | .nop arg _ => arg
  | .writeByte arg _ => arg
  | .readByte arg _ => arg
  | .waitRise arg _ => arg
  | .waitFall arg _ => arg
  | .waitHigh arg _ => arg
  | .waitLow arg _ => arg
  | .hsDrive arg _ => arg
  | .dataAcquire arg _ => arg
  | .dataRelease arg _ => arg
  | .delay arg _ => arg
  | .xportReset arg _ => arg
  | .cksumCompute arg _ => arg
  | .sendCmd arg _ => arg
  | .readResp arg _ => arg
  | .extPacket arg _ => arg
  | .rspReadCksum arg _ => arg
  | .rspWriteCksum arg _ => arg

/-- The word's LVL field. -/
def Instr.lvl : Instr → Bool
  | .nop _ lvl => lvl
  | .writeByte _ lvl => lvl
  | .readByte _ lvl => lvl
  | .waitRise _ lvl => lvl
  | .waitFall _ lvl => lvl
  | .waitHigh _ lvl => lvl
  | .waitLow _ lvl => lvl
  | .hsDrive _ lvl => lvl
  | .dataAcquire _ lvl => lvl
  | .dataRelease _ lvl => lvl
  | .delay _ lvl => lvl
  | .xportReset _ lvl => lvl
  | .cksumCompute _ lvl => lvl
  | .sendCmd _ lvl => lvl
  | .readResp _ lvl => lvl
  | .extPacket _ lvl => lvl
  | .rspReadCksum _ lvl => lvl
  | .rspWriteCksum _ lvl => lvl

end Sys2Proof
end

