-- ==== Sys2Proof/WellFormed.lean ====
section
/-! DEFINITION. Which operations a build accepts whatever the state of the block: the role letters of
the opcode map (30_encoding.md R122) and the argument ranges (R125 item 3). The machine's own check, with
its result codes, is Machine/Ops.lean's `Block.check`; Laws/Check.lean proves the two agree. -/

namespace Sys2Proof

/-- The role letter of the opcode map (30_encoding.md R122). -/
def Instr.roleOk (r : Role) : Instr → Bool
  | .nop _ _ => true
  | .writeByte _ _ => true
  | .readByte _ _ => true
  | .waitRise _ _ => true
  | .waitFall _ _ => true
  | .waitHigh _ _ => true
  | .waitLow _ _ => true
  | .hsDrive _ _ => true
  | .dataAcquire _ _ => true
  | .dataRelease _ _ => true
  | .delay _ _ => true
  | .xportReset _ _ => true
  | .cksumCompute _ _ => true
  | .sendCmd _ _ => decide (r = .initiator)
  | .readResp _ _ => decide (r = .initiator)
  | .extPacket _ _ => decide (r = .initiator)
  | .rspReadCksum _ _ => decide (r = .responder)
  | .rspWriteCksum _ _ => decide (r = .responder)

/-- The argument ranges of 30_encoding.md R125 item 3; no other operation has one. -/
def Instr.argOk (c : Config) : Instr → Bool
  | .nop _ _ => true
  | .writeByte _ _ => true
  | .readByte _ _ => true
  | .waitRise _ _ => true
  | .waitFall _ _ => true
  | .waitHigh _ _ => true
  | .waitLow _ _ => true
  | .hsDrive _ _ => true
  | .dataAcquire _ _ => true
  | .dataRelease _ _ => true
  | .delay _ _ => true
  | .xportReset _ _ => true
  | .cksumCompute arg _ => decide (arg.toNat ≤ c.bufSize.bytes)
  | .sendCmd _ _ => true
  | .readResp _ _ => true
  | .extPacket _ _ => true
  | .rspReadCksum arg _ => decide (arg.toNat ≤ c.bufSize.bytes)
  | .rspWriteCksum arg _ => decide (arg.toNat ≤ c.bufSize.bytes) && (decide (c.rev = .revA) || decide (arg.toNat ≤ 255))

/-- An operation is well formed for a build when the build's role may run it and its argument is in
range. -/
def Instr.wf (c : Config) (i : Instr) : Bool := i.roleOk c.role && i.argOk c

end Sys2Proof
end

