-- ==== Sys2Proof/Decode.lean ====
section
/-! DEFINITION. Decoding and encoding of the command word CMD32 (30_encoding.md R120 to R123, R128).
Every command is one 32-bit word (R127), so decoding reads one word and nothing follows it. -/

namespace Sys2Proof

/-- Why a word is no command (30_encoding.md R123). The block answers each with ERR_OP. -/
inductive Reject where
  /-- A bit of [7:5] is set. -/
  | reservedLow
  /-- A bit of [15:9] is set. -/
  | reservedHigh
  /-- OP is 0x0D to 0x0F, 0x13 to 0x17 or 0x1A to 0x1F. -/
  | unassignedOp
  deriving DecidableEq, Repr

/-- What the decoder reads from a word. -/
inductive Decoded where
  | instr (i : Instr)
  | reject (r : Reject)
  deriving DecidableEq, Repr

/-- OP[4:0] of a command word. -/
def opField (w : Word) : BitVec 5 := w.extractLsb' 0 5

/-- LVL[8] of a command word. -/
def lvlField (w : Word) : Bool := w.getLsbD 8

/-- ARG[31:16] of a command word. -/
def argField (w : Word) : Half := w.extractLsb' 16 16

/-- The opcode map (30_encoding.md R122), read from OP to the operation. -/
def decodeOp (op : BitVec 5) (arg : Half) (lvl : Bool) : Decoded :=
  match op.toNat with
  | 0x00 => .instr (.nop arg lvl)
  | 0x01 => .instr (.writeByte arg lvl)
  | 0x02 => .instr (.readByte arg lvl)
  | 0x03 => .instr (.waitRise arg lvl)
  | 0x04 => .instr (.waitFall arg lvl)
  | 0x05 => .instr (.waitHigh arg lvl)
  | 0x06 => .instr (.waitLow arg lvl)
  | 0x07 => .instr (.hsDrive arg lvl)
  | 0x08 => .instr (.dataAcquire arg lvl)
  | 0x09 => .instr (.dataRelease arg lvl)
  | 0x0A => .instr (.delay arg lvl)
  | 0x0B => .instr (.xportReset arg lvl)
  | 0x0C => .instr (.cksumCompute arg lvl)
  | 0x10 => .instr (.sendCmd arg lvl)
  | 0x11 => .instr (.readResp arg lvl)
  | 0x12 => .instr (.extPacket arg lvl)
  | 0x18 => .instr (.rspReadCksum arg lvl)
  | 0x19 => .instr (.rspWriteCksum arg lvl)
  | _ => .reject .unassignedOp

/-- The decoder: the reserved-bit test, then OP alone (30_encoding.md R123). -/
def decode (w : Word) : Decoded :=
  if w.extractLsb' 5 3 ≠ 0#3 then .reject .reservedLow
  else if w.extractLsb' 9 7 ≠ 0#7 then .reject .reservedHigh
  else decodeOp (opField w) (argField w) (lvlField w)

/-- The OP value of an operation (30_encoding.md R122). -/
def Instr.opcode : Instr → BitVec 5
  | .nop _ _ => 0x00#5
  | .writeByte _ _ => 0x01#5
  | .readByte _ _ => 0x02#5
  | .waitRise _ _ => 0x03#5
  | .waitFall _ _ => 0x04#5
  | .waitHigh _ _ => 0x05#5
  | .waitLow _ _ => 0x06#5
  | .hsDrive _ _ => 0x07#5
  | .dataAcquire _ _ => 0x08#5
  | .dataRelease _ _ => 0x09#5
  | .delay _ _ => 0x0A#5
  | .xportReset _ _ => 0x0B#5
  | .cksumCompute _ _ => 0x0C#5
  | .sendCmd _ _ => 0x10#5
  | .readResp _ _ => 0x11#5
  | .extPacket _ _ => 0x12#5
  | .rspReadCksum _ _ => 0x18#5
  | .rspWriteCksum _ _ => 0x19#5

/-- The encoder, which is also the assembler's rule (argv << 16) | (lvl << 8) | op (30_encoding.md R128):
ARG above seven zero bits, LVL, three zero bits and OP. -/
def encode (i : Instr) : Word :=
  i.arg ++ 0#7 ++ BitVec.ofBool i.lvl ++ 0#3 ++ i.opcode

/-- What the decoder reads from a word whose low `nbits` bits are those of `w` and whose other bits are
zero, numbered as the opcode table numbers them: bit 0 is the least significant bit of the one word. -/
def decodeTableWord (nbits w : Nat) : Option Instr :=
  match decode (BitVec.ofNat 32 (w % 2 ^ nbits)) with
  | .instr i => some i
  | .reject _ => none

end Sys2Proof
end

