-- ==== Sys2Proof/Machine/State.lean ====
section
/-! DEFINITION. The state of the SPF as plain data: a block (one instance, 10_state.md), the bus of one or
two blocks (60_exceptions.md R356), and the schedule of the steps to come (20_memory.md R105). Also the lines
of pseudocode (00_scope.md R17) out of which the sequencer's position is made, and State.reset. -/

namespace Sys2Proof.Machine

/-! ## Result codes and host registers -/

/-- RESULT.CODE (60_exceptions.md R320); the reserved codes 8 to 15 are never produced. -/
inductive ResultCode where
  | none
  | ok
  | cksumMismatch
  | overrun
  | errRole
  | errArg
  | errOp
  | errDir
  deriving DecidableEq, Repr

/-- RESULT (10_state.md R51); `isMatch` is MATCH and `isMatchB` is MATCH_B. -/
structure Result where
  code : ResultCode
  isMatch : Bool
  isMatchB : Bool
  count : Half
  deriving DecidableEq, Repr

/-- RESULT = 0 (10_state.md R51). -/
def Result.zero : Result := ⟨.none, false, false, 0#16⟩

/-- CKSUM (10_state.md R58): `calcA` is CALC, `rxackA` is RXACK, then CALC_B and RXACK_B. -/
structure Cksum where
  calcA : Byte
  rxackA : Byte
  calcB : Byte
  rxackB : Byte
  deriving DecidableEq, Repr

/-- The host-visible registers that hold something (10_state.md R40). ID and CFG are constants, CTRL and CMD
hold nothing, STATUS is a view of the whole block but for its OP field. EVENTS and IRQ_EN keep the
register's own bit numbering (R49, R50). -/
structure Regs where
  statusOp : BitVec 5
  events : BitVec 5
  irqEn : BitVec 5
  result : Result
  data : Byte
  cksum : Cksum
  advlen : Half
  tickdiv : Half
  clkdiv : Half
  byteSettle : Half
  prepoll : Half
  extSettle : Half
  deriving DecidableEq, Repr

/-! ## The frame buffer -/

/-- The frame buffer: the bytes written since the last reset, by window offset (20_memory.md R97), offsets
strictly rising. An unlisted byte reads as a free value (log 2). -/
abbrev Memory := List Host.Cell

/-! ## Lines of pseudocode -/

/-- Direction of a byte: WR for the side that writes it (41_handshake.md R220). -/
inductive Dir where
  | wr
  | rd
  deriving DecidableEq, Repr

/-- The three checksum accumulators (42_framer.md R250, R270). -/
inductive Acc where
  | acc
  | accA
  | accB
  deriving DecidableEq, Repr

/-- The byte v that an operation hands to XferI, Arm or a cycle. -/
inductive Src where
  /-- buf[j] -/
  | buf (j : Nat)
  /-- the local b -/
  | locB
  /-- the local acc -/
  | acc
  /-- n[7:0] -/
  | nLo
  /-- n[15:8] -/
  | nHi
  deriving DecidableEq, Repr

/-- What a delay waits for: PREPOLL, BYTE_SETTLE or EXT_SETTLE ticks, or ARGV ticks. -/
inductive Delay where
  | prepoll
  | byteSettle
  | extSettle
  | argv
  deriving DecidableEq, Repr

/-- The four waits of 41_handshake.md R230 to R233. -/
inductive Wait where
  | rise
  | fall
  | high
  | low
  deriving DecidableEq, Repr

/-- One line of an operation's pseudocode (00_scope.md R17): one atomic step of the sequencer, except that
an await, a delay or a hold lasts as long as it lasts. A for header takes no step of its own (log 9): the lines
of its body carry j. -/
inductive Line where
  /-- drive(data_oe, v) -/
  | driveOe (v : Bool)
  /-- drive(data_oe, v); finish(OK) -/
  | driveOeFinish (v : Bool)
  /-- drive(hs_o, ASSERTED) or drive(hs_o, DEASSERTED) -/
  | driveHs (asserted : Bool)
  /-- drive(hs_o, LVLV); finish(OK) -/
  | driveHsFinish
  /-- delay(t) -/
  | delay (d : Delay)
  /-- await(sample(hs_i) = ASSERTED) or await(sample(hs_i) = DEASSERTED) -/
  | awaitHs (asserted : Bool)
  /-- the await of a WAIT_* operation; finish(OK) -/
  | waitFinish (k : Wait)
  /-- SH <- v, in XferI -/
  | loadSh (v : Src)
  /-- SH <- v, in Arm -/
  | armSh (v : Src)
  /-- drive(sck_o, 0) -/
  | sckLow
  /-- drive(data_o, SH[0]) -/
  | putBit
  /-- drive(sck_o, 1) -/
  | sckHigh
  /-- d <- (dir = WR) ? SH[0] : sample(data_i) -/
  | takeBit (dir : Dir)
  /-- SH <- d above SH[7:1] -/
  | shiftBit
  /-- BITCNT <- (BITCNT + 1) mod 8 -/
  | countBit
  /-- hold(CLKDIV.DIV + 1) -/
  | hold
  /-- b <- XferI(…) or b <- AwaitByte(): b takes the SH they return -/
  | takeSh
  /-- BYTE_DONE <- 0, in Arm -/
  | clearDone
  /-- drive(data_o, v[0]) -/
  | driveBit0 (v : Src)
  /-- ARMED <- 1 -/
  | arm
  /-- await(BYTE_DONE = 1) -/
  | awaitByte
  /-- BYTE_DONE <- 0, in AwaitByte; `used` if the caller takes the byte -/
  | takeDone (used : Bool)
  /-- b <- DATA.BYTE -/
  | readData
  /-- DATA.BYTE <- b -/
  | writeData
  /-- an accumulator <- 0 -/
  | clearAcc (a : Acc)
  /-- an accumulator <- itself + buf[j] -/
  | addBuf (a : Acc) (j : Nat)
  /-- acc <- acc + b -/
  | addB
  /-- buf[j] <- b -/
  | storeB (j : Nat)
  /-- n <- ARGV -/
  | setN
  /-- cap <- min(ARGV, BUF_SIZE) -/
  | setCap
  /-- lo <- b -/
  | setLo
  /-- hi <- b -/
  | setHi
  /-- L <- the 16-bit number of hi above lo -/
  | joinLen
  /-- L <- zext_16(b) -/
  | widenLen
  /-- ADVLEN.LEN <- L -/
  | setAdvlen
  /-- if L > cap: the overrun lines; else the rest of READ_RESP for L bytes -/
  | testOverrun
  /-- STATUS.WSTATE <- 6 -/
  | showCompute
  /-- CKSUM.CALC <- acc -/
  | setCalc
  /-- CKSUM.RXACK <- b -/
  | setRxack
  /-- CKSUM.CALC <- accA ; CKSUM.RXACK <- buf[4] -/
  | cksumStageA
  /-- CKSUM.CALC_B <- accB ; CKSUM.RXACK_B <- buf[16] -/
  | cksumStageB
  /-- RESULT.MATCH <- (b = acc) -/
  | matchB
  /-- RESULT.MATCH <- (acc = DATA.BYTE) -/
  | matchData
  /-- RESULT.MATCH <- (buf[4] = accA) -/
  | matchStageA
  /-- RESULT.MATCH_B <- (buf[16] = accB) -/
  | matchStageB
  /-- RESULT.COUNT <- a constant -/
  | count (n : Nat)
  /-- RESULT.COUNT <- n -/
  | countN
  /-- RESULT.COUNT <- L -/
  | countLen
  /-- SH <- 0x00 ; BITCNT <- 0 ; BYTE_DONE <- 0 ; ARMED <- 0 -/
  | xportClear
  /-- drive(data_oe, 0) ; drive(data_o, 1) -/
  | xportLines
  /-- if ROLE = INITIATOR: drive(sck_o, 1) -/
  | xportSck
  /-- finish(code) -/
  | finish (c : ResultCode)
  /-- if b = acc: finish(OK) else: finish(CKSUM_MISMATCH) -/
  | finishMatchB
  /-- if acc = DATA.BYTE: finish(OK) else: finish(CKSUM_MISMATCH) -/
  | finishMatchData
  deriving DecidableEq, Repr

/-! ## Hidden state of a block -/

/-- SEQ (10_state.md R62): IDLE, or RUN at a position, which is the list of the lines still to run
(R34: the analogue of a program counter). -/
inductive Prog where
  | idle
  | run (todo : List Line)
  deriving DecidableEq, Repr

/-- The locals of the pseudocode (10_state.md R62): acc, accA, accB, L (`len`), cap, n, j, b, READ_RESP's
lo and hi, and XferI's d. The received ack or trailing checksum of a frame is the last b. -/
structure Locals where
  acc : Byte
  accA : Byte
  accB : Byte
  len : Half
  cap : Half
  n : Half
  j : Half
  b : Byte
  lo : Byte
  hi : Byte
  d : Level
  deriving DecidableEq, Repr

/-- The sequencer (10_state.md R62): position, latched command fields OPV, LVLV, ARGV, and locals. `mid` is the
model's own: the clk cycle under way has a step of AwaitByte to come (log 28). -/
structure Seq where
  prog : Prog
  opv : BitVec 5
  lvlv : Level
  argv : Half
  locs : Locals
  mid : Bool
  deriving DecidableEq, Repr

/-- Transport state (10_state.md R63): SH, BITCNT, BYTE_DONE, ARMED, HPH. -/
structure Xport where
  sh : Byte
  bitcnt : BitVec 3
  byteDone : Bool
  armed : Bool
  hph : Half
  deriving DecidableEq, Repr

/-- Output registers (10_state.md R63). A responder has no sck_o pin; its field stays 1. -/
structure Outputs where
  sckO : Level
  dataO : Level
  dataOe : Bool
  hsO : Level
  deriving DecidableEq, Repr

/-- Input synchronisers, newest stage first, and the edge detectors' previous values
(10_state.md R64). An initiator has no sck_i pin; its chain stays at reset. `bit` is the model's own: the data
bit that a sample in this cycle takes, the last stage of `data` or a draw (log 6, log 17). -/
structure Sync where
  hs : List Level
  data : List Level
  sck : List Level
  hsPrev : Level
  sckPrev : Level
  bit : Level
  deriving DecidableEq, Repr

/-- Timers (10_state.md R65): the tick prescaler PCNT and the delay counter DCNT. -/
structure Timers where
  pcnt : Half
  dcnt : Half
  deriving DecidableEq, Repr

/-- Which block of the model: the one at hand, or its peer. -/
inductive Side where
  | near
  | far
  deriving DecidableEq, Repr

/-- Which reset of which block a buffer's unlisted bytes date from: the model's own (log 2). -/
structure Epoch where
  side : Side
  resets : Nat
  deriving DecidableEq, Repr

/-- One SPF block. `rstN` is the level of its rst_n pin; `bufEpoch` says which reset the unlisted
buffer bytes date from (log 2). -/
structure Block where
  cfg : Config
  rstN : Level
  regs : Regs
  buf : Memory
  bufEpoch : Epoch
  seq : Seq
  xp : Xport
  out : Outputs
  sync : Sync
  tmr : Timers
  deriving DecidableEq, Repr

/-! ## The outside world -/

/-- The levels at a block's input pins hs_i, data_i and sck_i (10_state.md R30). -/
structure Pins where
  hs : Level
  data : Level
  sck : Level
  deriving DecidableEq, Repr

/-- A host access: MemRead(addr, n) or MemWrite(addr, n, v) (20_memory.md R93). -/
inductive Access where
  | read (addr : BitVec 12) (n : Nat)
  | write (addr : BitVec 12) (n : Nat) (v : Word)
  deriving DecidableEq, Repr

/-- What the host port answers: data, and ok for OKAY (20_memory.md R93). -/
structure Reply where
  side : Side
  data : Word
  ok : Bool
  deriving DecidableEq, Repr

/-- One atomic step of the total order (20_memory.md R105). -/
inductive Event where
  /-- The next step of a block's clock: a clk cycle up to its first line's step or, if the cycle under way has
  steps to come, the next line's step (log 28). `p` gives the levels in a new cycle that no block of the model
  drives: every input pin when the block is alone, only the undriven or contended DATA line when both blocks are
  there. -/
  | clk (side : Side) (p : Pins)
  /-- One host access at a block's port. -/
  | host (side : Side) (a : Access)
  /-- A step of a block's clock with a host write of v to EVENTS in the same step (10_state.md R49). -/
  | clkClear (side : Side) (p : Pins) (v : Word)
  /-- The platform sets a block's rst_n pin (70_reset_and_hazards.md R370). -/
  | rst (side : Side) (level : Level)
  deriving DecidableEq, Repr

/-- How far the clock timing of 70_reset_and_hazards.md R380 is met between an initiator and a responder: the
model's own count of cycles (log 17). Since the last change of the initiator's sck_o the responder has run
`rCycles` clk cycles and the initiator, after S_R + 2 of those, `iCycles`; `slipped` is on from a CLK level that
the responder was not given two cycles of until the byte is over; `late` is on from a rising edge that the bit on the
line did not reach the initiator before, until the next falling edge. -/
structure Pace where
  rCycles : Nat
  iCycles : Nat
  slipped : Bool
  late : Bool
  deriving DecidableEq, Repr

/-- The whole model: the block at hand, its peer block if the whole bus is modelled, the CONTENTION record
(20_memory.md R104), the clock timing kept so far and the number of bits drawn (log 6, log 17), the schedule of steps
to come (log 3), the port the running command came in at (log 4) and what the host ports have answered, oldest
first (log 21). -/
structure State where
  near : Block
  far : Option Block
  contention : Bool
  pace : Pace
  draws : Nat
  env : List Event
  port : Side
  replies : List Reply
  deriving DecidableEq, Repr

/-- Why the machine stops. The spec gives the block no trap or fault (00_scope.md R14), so this one is the
model's own. -/
inductive Fault where
  /-- Raised by step, and by a meaning run at a port, when the schedule names a block that this State does
  not hold (far = none): there is no such hardware to act. Safe: nothing is claimed of it. -/
  | absentBlock
  deriving DecidableEq, Repr

/-- Why an instruction has no meaning. -/
inductive Refusal where
  /-- Raised by exec for an instruction that is not modelled yet, by its mnemonic. Safe. No arm raises it. -/
  | notModelled (mnemonic : String)
  deriving DecidableEq, Repr

/-! ## Reset -/

/-- The level that means DEASSERTED on a handshake line (41_handshake.md R210). -/
def deasserted (c : Config) : Level := !c.hsAssert

/-- Register values after rst_n (10_state.md R67; each from its register's own rule). -/
def Regs.reset (c : Config) : Regs where
  statusOp := 0#5
  events := 0#5
  irqEn := 0#5
  result := .zero
  data := 0#8
  cksum := ⟨0#8, 0#8, 0#8, 0#8⟩
  advlen := 0#16
  tickdiv := c.tickdivRst
  clkdiv := c.clkdivRst
  byteSettle := c.byteSettleRst
  prepoll := match c.rev with
    | .revA => 0#16
    | .revB => c.prepollRstB
  extSettle := c.extSettleRst

/-- Locals right after reset: DESIGN CHOICE (log 12), all zero; no rule reads them before it writes them. -/
def Locals.zero : Locals :=
  ⟨0#8, 0#8, 0#8, 0#16, 0#16, 0#16, 0#16, 0#8, 0#8, 0#8, false⟩

/-- SEQ = IDLE and the latched fields 0 (10_state.md R62). -/
def Seq.reset : Seq := ⟨.idle, 0#5, false, 0#16, .zero, false⟩

/-- Transport state after reset (10_state.md R63). -/
def Xport.reset : Xport := ⟨0#8, 0#3, false, false, 0#16⟩

/-- Output registers after reset (10_state.md R63): CLK high, DATA released, handshake DEASSERTED. -/
def Outputs.reset (c : Config) : Outputs := ⟨true, true, false, deasserted c⟩

/-- Synchronisers after reset (10_state.md R64); `bit` as the last stage of `data`. -/
def Sync.reset (c : Config) : Sync where
  hs := List.replicate c.syncStages (deasserted c)
  data := List.replicate c.syncStages true
  sck := List.replicate c.syncStages true
  hsPrev := deasserted c
  sckPrev := true
  bit := true

/-- Timers after reset (10_state.md R65). -/
def Timers.reset : Timers := ⟨0#16, 0#16⟩

/-- A block in the state of 10_state.md R67 after rst_n, its rst_n pin at the given level and its
buffer unspecified since reset `epoch`. -/
def Block.reset (c : Config) (rstN : Level) (epoch : Epoch) : Block where
  cfg := c
  rstN := rstN
  regs := .reset c
  buf := []
  bufEpoch := epoch
  seq := .reset
  xp := .reset
  out := .reset c
  sync := .reset c
  tmr := .reset

/-- CLK at rest: it has stood high long enough (log 17). -/
def Pace.rest : Pace := ⟨2, 0, false, false⟩

/-- The bus right after reset for any two builds: both blocks out of rst_n, nothing recorded, nothing
scheduled (70_reset_and_hazards.md R370: nothing runs until the host writes CMD). -/
def State.resetWith (cn : Config) (cf : Option Config) : State where
  near := .reset cn true ⟨.near, 0⟩
  far := cf.map (Block.reset · true ⟨.far, 0⟩)
  contention := false
  pace := .rest
  draws := 0
  env := []
  port := .near
  replies := []

/-- The machine right after reset: a bus of exactly one initiator and one responder (00_scope.md R3;
60_exceptions.md R356), built as Config.default says. -/
def State.reset : State := .resetWith (.default .initiator) (some (.default .responder))

end Sys2Proof.Machine
end

