-- ==== Sys2Proof/Machine/Memory.lean ====
section
/-! DEFINITION. The frame buffer as a memory of bytes by window offset (20_memory.md R97): reading and
writing one byte, and the canonical form. -/

namespace Sys2Proof.Machine

/-- The window offset of buf[i] (20_memory.md R97). -/
def bufOffset (i : Nat) : Nat := 0x400 + i

/-- The byte listed at an offset, if one is. -/
def Memory.find? (off : Nat) : Memory → Option Byte
  | [] => none
  | (a, v) :: m => if a = off then some v else Memory.find? off m

/-- The number of a block, for its free values. -/
def Side.index : Side → Nat
  | .near => 0
  | .far => 1

/-- What an offset reads as: the listed byte, else the free value of that block and reset (log 2). -/
def Memory.readByte (m : Memory) (e : Epoch) (off : Nat) : Byte :=
  match m.find? off with
  | some v => v
  | none => Config.freeByte e.side.index e.resets off

/-- Write one byte, keeping the offsets strictly rising. -/
def Memory.writeByte (off : Nat) (v : Byte) : Memory → Memory
  | [] => [(off, v)]
  | (a, w) :: m =>
    if off < a then (off, v) :: (a, w) :: m
    else if off = a then (off, v) :: m
    else (a, w) :: Memory.writeByte off v m

/-- Offsets strictly rise from a lower bound on. -/
def Memory.risingFrom (lo : Nat) : Memory → Bool
  | [] => true
  | (a, _) :: m => decide (lo ≤ a) && Memory.risingFrom (a + 1) m

/-- The canonical form: offsets strictly rising. An unlisted offset has no value of its own to be equal to,
so no entry is ever redundant (log 2). -/
def Memory.wf (m : Memory) : Bool := Memory.risingFrom 0 m

/-- Every listed offset lies in the buffer of the given size (20_memory.md R103). -/
def Memory.within (size : Nat) (m : Memory) : Bool :=
  m.all fun c => decide (bufOffset 0 ≤ c.1) && decide (c.1 < bufOffset size)

end Sys2Proof.Machine
end

