-- ==== Sys2Proof/Machine/Operands.lean ====
section
/-! DEFINITION. Operand forms: buffer bytes, the bytes handed to the transport, delay lengths,
accumulators, and the synchronised levels of the input pins (30_encoding.md R121; 41_handshake.md R211). -/

namespace Sys2Proof.Machine

/-- buf[j] as it reads now (20_memory.md R97). -/
def Block.readBuf (b : Block) (j : Nat) : Byte := b.buf.readByte b.bufEpoch (bufOffset j)

/-- buf[j] <- v. -/
def Block.writeBuf (b : Block) (j : Nat) (v : Byte) : Block :=
  { b with buf := b.buf.writeByte (bufOffset j) v }

/-- The byte v of a line that names one. -/
def Block.srcByte (b : Block) : Src → Byte
  | .buf j => b.readBuf j
  | .locB => b.seq.locs.b
  | .acc => b.seq.locs.acc
  | .nLo => b.seq.locs.n.extractLsb' 0 8
  | .nHi => b.seq.locs.n.extractLsb' 8 8

/-- The for variable that a source names, if it names one. -/
def Src.index? : Src → Option Nat
  | .buf j => some j
  | .locB => none
  | .acc => none
  | .nLo => none
  | .nHi => none

/-- An accumulator's value. -/
def Locals.accVal (l : Locals) : Acc → Byte
  | .acc => l.acc
  | .accA => l.accA
  | .accB => l.accB

/-- An accumulator <- v. -/
def Locals.setAcc (l : Locals) (a : Acc) (v : Byte) : Locals :=
  match a with
  | .acc => { l with acc := v }
  | .accA => { l with accA := v }
  | .accB => { l with accB := v }

/-- The length of a delay in ticks (41_handshake.md R214, R215, R235; 40_transport.md R172;
42_framer.md R270). -/
def Block.ticks (b : Block) : Delay → Half
  | .prepoll => b.regs.prepoll
  | .byteSettle => b.regs.byteSettle
  | .extSettle => b.regs.extSettle
  | .argv => b.seq.argv

/-- The electrical level of ASSERTED or DEASSERTED (41_handshake.md R210). -/
def hsLevel (c : Config) (asserted : Bool) : Level :=
  if asserted then c.hsAssert else !c.hsAssert

/-- The output of a synchroniser's last stage (10_state.md R64). -/
def lastStage (chain : List Level) : Level := chain.getLastD false

/-- sample(hs_i) (41_handshake.md R211). -/
def Block.hsSample (b : Block) : Level := lastStage b.sync.hs

/-- sample(data_i). -/
def Block.dataSample (b : Block) : Level := lastStage b.sync.data

/-- sample(sck_i), on a responder. -/
def Block.sckSample (b : Block) : Level := lastStage b.sync.sck

/-- A delay of no ticks takes no time (41_handshake.md R214): lines that are such delays are passed over. -/
def Block.dropZero (b : Block) : List Line → List Line
  | .delay d :: rest => if b.ticks d = 0#16 then b.dropZero rest else .delay d :: rest
  | rest => rest

end Sys2Proof.Machine
end

