-- ==== Sys2Proof/Machine/Flags.lean ====
section
/-! DEFINITION. The block's flags (10_state.md R35): result codes, EVENTS bits, the interrupt line, BUSY and
WSTATE, and the register words made of them. -/

namespace Sys2Proof.Machine

/-- RESULT.CODE[3:0] (60_exceptions.md R320). -/
def ResultCode.bits : ResultCode → BitVec 4
  | .none => 0#4
  | .ok => 1#4
  | .cksumMismatch => 2#4
  | .overrun => 3#4
  | .errRole => 4#4
  | .errArg => 5#4
  | .errOp => 6#4
  | .errDir => 7#4

/-- A code of 2 or more sets EVENTS.ERR (60_exceptions.md R320). -/
def ResultCode.isError (c : ResultCode) : Bool := decide (2 ≤ c.bits.toNat)

/-- The sticky events (10_state.md R49). -/
inductive EventBit where
  | done
  | err
  | cmdIgnored
  | strayClk
  | wrIgnored
  deriving DecidableEq, Repr

/-- An event's place in EVENTS and IRQ_EN (10_state.md R49, R50). -/
def EventBit.index : EventBit → Nat
  | .done => 0
  | .err => 1
  | .cmdIgnored => 2
  | .strayClk => 3
  | .wrIgnored => 4

/-- An event's bit alone. -/
def EventBit.mask (e : EventBit) : BitVec 5 := 1#5 <<< e.index

/-- Whether an event's bit is set in EVENTS. -/
def Block.event (b : Block) (e : EventBit) : Bool := b.regs.events.getLsbD e.index

/-- Hardware sets a sticky event; a bit already set stays set and no count is kept
(60_exceptions.md R341). -/
def Block.raise (b : Block) (e : EventBit) : Block :=
  { b with regs.events := b.regs.events ||| e.mask }

/-- The host clears the EVENTS bits written as 1 (10_state.md R49). -/
def Block.clearEvents (b : Block) (v : Word) : Block :=
  { b with regs.events := b.regs.events &&& ~~~(v.extractLsb' 0 5) }

/-- The irq output: high while an enabled event is pending (60_exceptions.md R340). -/
def Block.irq (b : Block) : Bool := decide (b.regs.events &&& b.regs.irqEn ≠ 0#5)

/-- SEQ ≠ IDLE, which is STATUS.BUSY (10_state.md R62). -/
def Block.busy (b : Block) : Bool :=
  match b.seq.prog with
  | .idle => false
  | .run _ => true

/-- The WSTATE of a position (10_state.md R48): the kind of wait the next line is in. It is 3 at every line of XferI
and of AwaitByte, and where b takes the byte they return (41_handshake.md R222, R226), but for XferI's settle delay,
4 (40_transport.md R172). DESIGN CHOICE: it is 0 at every other line that is no wait (log 13). -/
def Line.wstate : Line → BitVec 4
  | .awaitHs true => 1#4
  | .awaitHs false => 2#4
  | .sckLow => 3#4
  | .putBit => 3#4
  | .sckHigh => 3#4
  | .takeBit _ => 3#4
  | .shiftBit => 3#4
  | .countBit => 3#4
  | .hold => 3#4
  | .awaitByte => 3#4
  | .takeDone _ => 3#4
  | .delay _ => 4#4
  | .waitFinish _ => 5#4
  | .addBuf _ _ => 0#4
  | .driveOe _ => 0#4
  | .driveOeFinish _ => 0#4
  | .driveHs _ => 0#4
  | .driveHsFinish => 0#4
  | .loadSh _ => 3#4
  | .armSh _ => 0#4
  | .takeSh => 3#4
  | .clearDone => 0#4
  | .driveBit0 _ => 0#4
  | .arm => 0#4
  | .readData => 0#4
  | .writeData => 0#4
  | .clearAcc _ => 0#4
  | .addB => 0#4
  | .storeB _ => 0#4
  | .setN => 0#4
  | .setCap => 0#4
  | .setLo => 0#4
  | .setHi => 0#4
  | .joinLen => 0#4
  | .widenLen => 0#4
  | .setAdvlen => 0#4
  | .testOverrun => 0#4
  | .showCompute => 0#4
  | .setCalc => 0#4
  | .setRxack => 0#4
  | .cksumStageA => 0#4
  | .cksumStageB => 0#4
  | .matchB => 0#4
  | .matchData => 0#4
  | .matchStageA => 0#4
  | .matchStageB => 0#4
  | .count _ => 0#4
  | .countN => 0#4
  | .countLen => 0#4
  | .xportClear => 0#4
  | .xportLines => 0#4
  | .xportSck => 0#4
  | .finish _ => 0#4
  | .finishMatchB => 0#4
  | .finishMatchData => 0#4

/-- STATUS.WSTATE (10_state.md R48). CKSUM_COMPUTE shows 6 from its line STATUS.WSTATE <- 6 on
(43_checksum.md R305), which no other operation has: while that line is still to come it shows 0 (log 13). -/
def Block.wstate (b : Block) : BitVec 4 :=
  match b.seq.prog with
  | .idle => 0#4
  | .run [] => 0#4
  | .run (l :: rest) =>
    if b.seq.opv = 0x0C#5 then (if Line.showCompute ∈ l :: rest then 0#4 else 6#4) else l.wstate

/-- RESULT as a register word (10_state.md R51). -/
def Result.word (r : Result) : Word :=
  r.count ++ 0#6 ++ BitVec.ofBool r.isMatchB ++ BitVec.ofBool r.isMatch ++ 0#4 ++ r.code.bits

/-- CKSUM as a register word (10_state.md R58). -/
def Cksum.word (c : Cksum) : Word := c.rxackB ++ c.calcB ++ c.rxackA ++ c.calcA

/-- ID (10_state.md R44). -/
def idWord : Word := 0x53504601#32

/-- CFG (10_state.md R45). -/
def cfgWord (c : Config) : Word :=
  BitVec.ofNat 16 c.bufSize.bytes ++ 0#4 ++ BitVec.ofNat 4 c.syncStages ++ 0#5 ++
    BitVec.ofBool c.hsAssert ++ BitVec.ofBool (decide (c.rev = .revB)) ++
    BitVec.ofBool (decide (c.role = .responder))

/-- STATUS.SCK (10_state.md R48): the own sck_o on an initiator, the synchronised sck_i on a
responder. -/
def Block.statusSck (b : Block) : Level :=
  match b.cfg.role with
  | .initiator => b.out.sckO
  | .responder => b.sckSample

/-- STATUS (10_state.md R48), a live view of the block; ARMED and BYTE_DONE read 0 on an initiator. -/
def Block.statusWord (b : Block) : Word :=
  0#11 ++ b.regs.statusOp ++ b.wstate ++ 0#1 ++ b.xp.bitcnt ++
    BitVec.ofBool (b.xp.byteDone && decide (b.cfg.role = .responder)) ++
    BitVec.ofBool (b.xp.armed && decide (b.cfg.role = .responder)) ++
    BitVec.ofBool b.dataSample ++ BitVec.ofBool b.statusSck ++ BitVec.ofBool b.hsSample ++
    BitVec.ofBool b.out.hsO ++ BitVec.ofBool b.out.dataOe ++ BitVec.ofBool b.busy

end Sys2Proof.Machine
end

