-- ==== Sys2Proof/Machine/Programs.lean ====
section
/-! DEFINITION. The pseudocode of the operations, line by line as the spec lists it (40_transport.md to
43_checksum.md). A for loop's count is fixed when the loop starts (30_encoding.md R126), so a loop is the
list of its bodies. -/

namespace Sys2Proof.Machine

/-! ## Internal procedures -/

/-- One bit period of XferI (40_transport.md R172): the falling edge, the bit when writing, the low half; the
rising edge, the bit taken, the shift and the count, the high half. A hold ends its half (log 8); an if that dir
makes false has no step (log 9). -/
def bitPeriod (d : Dir) : List Line :=
  [Line.sckLow] ++
  (match d with
    | .wr => [Line.putBit]
    | .rd => []) ++
  [Line.hold, Line.sckHigh, Line.takeBit d, Line.shiftBit, Line.countBit, Line.hold]

/-- XferI(dir, v) (40_transport.md R172), the initiator's byte transfer: load SH when writing, eight bit
periods, the settle delay. Its return is the step of the caller's b <- XferI(…), Line.takeSh, and has none where the
caller leaves the value unused (log 28). -/
def xferI (d : Dir) (v : Src) : List Line :=
  (match d with
    | .wr => [Line.loadSh v]
    | .rd => []) ++
  (List.range 8).flatMap (fun _ => bitPeriod d) ++ [Line.delay .byteSettle]

/-- Arm(dir, v) (40_transport.md R175). -/
def armLines (d : Dir) (v : Src) : List Line :=
  [Line.clearDone] ++
  (match d with
    | .wr => [Line.armSh v, Line.driveOe true, Line.driveBit0 v]
    | .rd => []) ++
  [Line.arm]

/-- b <- AwaitByte() (40_transport.md R176): it takes no cycle beyond the one in which BYTE_DONE comes
(60_exceptions.md R347; log 28). -/
def awaitByteLines : List Line := [Line.awaitByte, Line.takeDone true, Line.takeSh]

/-- AwaitByte() with its value left unused: no line takes it, so its return has no step (log 28). -/
def awaitDoneLines : List Line := [Line.awaitByte, Line.takeDone false]

/-- prepoll(); await(sample(hs_i) = …) (41_handshake.md R215). -/
def pollHs (asserted : Bool) : List Line := [Line.delay .prepoll, Line.awaitHs asserted]

/-- CycleI(dir, v) (41_handshake.md R221), the initiator's side of a byte handshake cycle. The value is
left in b, so `return b` has no step (log 28). -/
def cycleI (d : Dir) (v : Src) : List Line :=
  (match d with
    | .wr => []
    | .rd => [Line.driveOe false]) ++
  [Line.driveHs true] ++ pollHs true ++
  (match d with
    | .wr => [Line.driveOe true]
    | .rd => []) ++
  xferI d v ++ [Line.takeSh, Line.driveHs false] ++ pollHs false

/-- CycleR(dir, v) (41_handshake.md R222), the responder's side. The value is left in b, so
`return b` has no step (log 28). -/
def cycleR (d : Dir) (v : Src) : List Line :=
  pollHs true ++
  (match d with
    | .wr => []
    | .rd => [Line.driveOe false]) ++
  armLines d v ++ [Line.driveHs true] ++ awaitByteLines ++ pollHs false ++ [Line.driveHs false]

/-! ## Transport operations (40_transport.md) -/

/-- WRITE_BYTE (R180). The value that XferI or AwaitByte returns is unused, so no line takes it (log 28). -/
def writeByteProg (r : Role) : List Line :=
  [Line.readData, Line.driveOe true] ++
  (match r with
    | .initiator => xferI .wr .locB
    | .responder => armLines .wr .locB ++ awaitDoneLines) ++
  [Line.count 1, Line.finish .ok]

/-- READ_BYTE (R181). -/
def readByteProg (r : Role) : List Line :=
  (match r with
    | .initiator => xferI .rd .locB ++ [Line.takeSh]
    | .responder => armLines .rd .locB ++ awaitByteLines) ++
  [Line.writeData, Line.count 1, Line.finish .ok]

/-- DATA_ACQUIRE (R182). -/
def dataAcquireProg : List Line := [Line.driveOeFinish true]

/-- DATA_RELEASE (R183). -/
def dataReleaseProg : List Line := [Line.driveOeFinish false]

/-- XPORT_RESET (R184). DESIGN CHOICE: its `if ROLE = INITIATOR: drive(sck_o, 1)` is a step in either role; on a
responder the step drives nothing (log 9). -/
def xportResetProg : List Line := [Line.xportClear, Line.xportLines, Line.xportSck, Line.finish .ok]

/-! ## Handshake and timing operations (41_handshake.md) -/

/-- WAIT_RISE, WAIT_FALL, WAIT_HIGH, WAIT_LOW (R230 to R233). -/
def waitProg (k : Wait) : List Line := [Line.delay .prepoll, Line.waitFinish k]

/-- HS_DRIVE (R234). -/
def hsDriveProg : List Line := [Line.driveHsFinish]

/-- DELAY (R235). -/
def delayProg : List Line := [Line.delay .argv, Line.finish .ok]

/-- NOP (R236). -/
def nopProg : List Line := [Line.finish .ok]

/-! ## Framer operations (42_framer.md) -/

/-- One byte of a frame the initiator sends, added to an accumulator (R250, R270). -/
def sendByteI (a : Acc) (j : Nat) : List Line := cycleI .wr (.buf j) ++ [Line.addBuf a j]

/-- SEND_CMD (R250). -/
def sendCmdProg : List Line :=
  [Line.clearAcc .acc] ++ (List.range 4).flatMap (sendByteI .acc) ++ cycleI .rd .locB ++
  [Line.setCalc, Line.setRxack, Line.matchB, Line.count 4, Line.finishMatchB]

/-- READ_RESP after the overrun test, for L payload bytes (R260). -/
def readRespTail (len : Nat) : List Line :=
  [Line.clearAcc .acc] ++
  (List.range len).flatMap (fun j => cycleI .rd .locB ++ [Line.storeB j, Line.addB]) ++
  cycleI .rd .locB ++ [Line.setCalc, Line.setRxack, Line.matchB, Line.countLen, Line.finish .ok]

/-- READ_RESP when L > cap (R260). -/
def overrunTail : List Line := [Line.count 0, Line.finish .overrun]

/-- READ_RESP up to the overrun test (R260): the prefix is 16 bits, low byte first, in REV_A
(20_memory.md R100) and 8 bits in REV_B. -/
def readRespProg (v : Rev) : List Line :=
  [Line.setCap] ++
  (match v with
    | .revA => cycleI .rd .locB ++ [Line.setLo] ++ cycleI .rd .locB ++ [Line.setHi, Line.joinLen]
    | .revB => cycleI .rd .locB ++ [Line.widenLen]) ++
  [Line.setAdvlen, Line.testOverrun]

/-- EXT_PACKET (R270). -/
def extPacketProg : List Line :=
  [Line.clearAcc .accA] ++ (List.range 4).flatMap (sendByteI .accA) ++ cycleI .rd .locB ++ [Line.storeB 4] ++
  [Line.delay .extSettle, Line.clearAcc .accB] ++ (List.range' 5 11).flatMap (sendByteI .accB) ++
  cycleI .rd .locB ++ [Line.storeB 16] ++
  [Line.cksumStageA, Line.cksumStageB, Line.matchStageA, Line.matchStageB, Line.count 17, Line.finish .ok]

/-- RSP_READ_CKSUM (R280). -/
def rspReadCksumProg (n : Nat) : List Line :=
  [Line.setN, Line.clearAcc .acc] ++
  (List.range n).flatMap (fun j => cycleR .rd .locB ++ [Line.storeB j, Line.addB]) ++
  cycleR .wr .acc ++ [Line.setCalc, Line.countN, Line.finish .ok]

/-- RSP_WRITE_CKSUM (R290): both prefix bytes in REV_A, low byte first, one in REV_B. -/
def rspWriteCksumProg (v : Rev) (n : Nat) : List Line :=
  [Line.setN] ++
  (match v with
    | .revA => cycleR .wr .nLo ++ cycleR .wr .nHi
    | .revB => cycleR .wr .nLo) ++
  [Line.clearAcc .acc] ++
  (List.range n).flatMap (fun j => cycleR .wr (.buf j) ++ [Line.addBuf .acc j]) ++
  cycleR .wr .acc ++ [Line.setCalc, Line.countN, Line.finish .ok]

/-! ## Checksum validator (43_checksum.md) -/

/-- CKSUM_COMPUTE (R305). -/
def cksumComputeProg (n : Nat) : List Line :=
  [Line.setN, Line.showCompute, Line.clearAcc .acc] ++ (List.range n).map (Line.addBuf .acc) ++
  [Line.setCalc, Line.matchData, Line.countN, Line.finishMatchData]

/-- The pseudocode of every operation, on a block built as `c`. -/
def programOf (c : Config) : Instr → List Line
  | .nop _ _ => nopProg
  | .writeByte _ _ => writeByteProg c.role
  | .readByte _ _ => readByteProg c.role
  | .waitRise _ _ => waitProg .rise
  | .waitFall _ _ => waitProg .fall
  | .waitHigh _ _ => waitProg .high
  | .waitLow _ _ => waitProg .low
  | .hsDrive _ _ => hsDriveProg
  | .dataAcquire _ _ => dataAcquireProg
  | .dataRelease _ _ => dataReleaseProg
  | .delay _ _ => delayProg
  | .xportReset _ _ => xportResetProg
  | .cksumCompute arg _ => cksumComputeProg arg.toNat
  | .sendCmd _ _ => sendCmdProg
  | .readResp _ _ => readRespProg c.rev
  | .extPacket _ _ => extPacketProg
  | .rspReadCksum arg _ => rspReadCksumProg arg.toNat
  | .rspWriteCksum arg _ => rspWriteCksumProg c.rev arg.toNat

end Sys2Proof.Machine
end

