-- ==== Sys2Proof/Machine/Ops.lean ====
section
/-! DEFINITION. The named operations on a block: driving lines, completing (finish), checking, refusing and
accepting a command word, and the two resets. The block takes no trap (60_exceptions.md R348): what other
hardware does by an exception, it does by a refusal (R321) and by finish with an error code (R331). -/

namespace Sys2Proof.Machine

/-! ## Lines -/

/-- drive(data_oe, v). -/
def Block.driveOe (b : Block) (v : Bool) : Block := { b with out.dataOe := v }

/-- drive(data_o, v). -/
def Block.driveData (b : Block) (v : Level) : Block := { b with out.dataO := v }

/-- drive(sck_o, v). -/
def Block.driveSck (b : Block) (v : Level) : Block := { b with out.sckO := v }

/-- drive(hs_o, v) (41_handshake.md R216). -/
def Block.driveHs (b : Block) (v : Level) : Block := { b with out.hsO := v }

/-- SH <- d above SH[7:1] (40_transport.md R172, R174): shift right, the new bit enters at bit 7. -/
def shiftIn (d : Level) (sh : Byte) : Byte := BitVec.ofBool d ++ sh.extractLsb' 1 7

/-! ## Sequencer position -/

/-- Go on at the lines `rest`; delays of no ticks take no time (41_handshake.md R214). -/
def Block.goto (b : Block) (rest : List Line) : Block :=
  { b with seq.prog := .run (b.dropZero rest) }

/-- finish(code) (60_exceptions.md R331). It changes no line. -/
def Block.finish (b : Block) (c : ResultCode) : Block :=
  let b1 := { b with regs.result.code := c, seq.prog := .idle }
  let b2 := b1.raise .done
  if c.isError then b2.raise .err else b2

/-! ## Submission -/

/-- The role letters of the opcode map (30_encoding.md R122). -/
def roleAccepts (r : Role) : Instr → Bool
  | .nop _ _ | .writeByte _ _ | .readByte _ _ | .waitRise _ _ | .waitFall _ _ | .waitHigh _ _
  | .waitLow _ _ | .hsDrive _ _ | .dataAcquire _ _ | .dataRelease _ _ | .delay _ _ | .xportReset _ _
  | .cksumCompute _ _ => true
  | .sendCmd _ _ | .readResp _ _ | .extPacket _ _ =>
    match r with
    | .initiator => true
    | .responder => false
  | .rspReadCksum _ _ | .rspWriteCksum _ _ =>
    match r with
    | .initiator => false
    | .responder => true

/-- The largest ARG an operation accepts, where R125 item 3 sets one. -/
def argLimit (c : Config) : Instr → Option Nat
  | .cksumCompute _ _ | .rspReadCksum _ _ => some c.bufSize.bytes
  | .rspWriteCksum _ _ =>
    match c.rev with
    | .revA => some c.bufSize.bytes
    | .revB => some (min c.bufSize.bytes 255)
  | .nop _ _ | .writeByte _ _ | .readByte _ _ | .waitRise _ _ | .waitFall _ _ | .waitHigh _ _
  | .waitLow _ _ | .hsDrive _ _ | .dataAcquire _ _ | .dataRelease _ _ | .delay _ _ | .xportReset _ _
  | .sendCmd _ _ | .readResp _ _ | .extPacket _ _ => none

/-- ARG is in range (30_encoding.md R125 item 3). -/
def argInRange (c : Config) (i : Instr) : Bool :=
  match argLimit c i with
  | some m => decide (i.arg.toNat ≤ m)
  | none => true

/-- READ_BYTE needs DATA released (30_encoding.md R125 item 4). -/
def needsRelease : Instr → Bool
  | .readByte _ _ => true
  | .nop _ _ | .writeByte _ _ | .waitRise _ _ | .waitFall _ _ | .waitHigh _ _ | .waitLow _ _
  | .hsDrive _ _ | .dataAcquire _ _ | .dataRelease _ _ | .delay _ _ | .xportReset _ _
  | .cksumCompute _ _ | .sendCmd _ _ | .readResp _ _ | .extPacket _ _ | .rspReadCksum _ _
  | .rspWriteCksum _ _ => false

/-- check(w) after its first test, which is decoding (30_encoding.md R125): ERR_ROLE, then ERR_ARG, then
ERR_DIR, else OK. -/
def Block.check (b : Block) (i : Instr) : ResultCode :=
  if !roleAccepts b.cfg.role i then .errRole
  else if !argInRange b.cfg i then .errArg
  else if needsRelease i && b.out.dataOe then .errDir
  else .ok

/-- A refused command word (30_encoding.md R124, 60_exceptions.md R321): the result, STATUS.OP and the two events;
nothing else changes. That STATUS.OP takes the refused OP is R124's and R321's, against R48's wording (log 10). -/
def Block.refuse (b : Block) (op : BitVec 5) (c : ResultCode) : Block :=
  (({ b with regs.result := ⟨c, false, false, 0#16⟩, regs.statusOp := op }).raise .done).raise .err

/-- An accepted command (30_encoding.md R124): latch it, clear RESULT, DONE and ERR, and start at the
first line. The locals keep what they hold (log 12). -/
def Block.accept (b : Block) (i : Instr) (prog : List Line) : Block :=
  let b1 := { b with
    regs.result := .zero
    regs.events := b.regs.events &&& ~~~(EventBit.done.mask ||| EventBit.err.mask)
    regs.statusOp := i.opcode
    seq.opv := i.opcode
    seq.lvlv := i.lvl
    seq.argv := i.arg
    seq.mid := false }
  b1.goto prog

/-- Submission of a command that decodes to `i` with pseudocode `prog` (30_encoding.md R124): dropped while
busy, refused if the check fails, else accepted. -/
def Block.submit (b : Block) (i : Instr) (prog : List Line) : Block :=
  if b.busy then b.raise .cmdIgnored
  else
    match b.check i with
    | .ok => b.accept i prog
    | c => b.refuse i.opcode c

/-- A host write of w to CMD (30_encoding.md R124, R125): a word that does not decode is refused with
ERR_OP. -/
def Block.submitWord (b : Block) (w : Word) : Block :=
  match decode w with
  | .instr i => b.submit i (programOf b.cfg i)
  | .reject _ => if b.busy then b.raise .cmdIgnored else b.refuse (opField w) .errOp

/-! ## Reset -/

/-- A clk cycle with rst_n = 0 (70_reset_and_hazards.md R370): every piece of state takes its value after
rst_n, and the buffer is unspecified anew (log 19). -/
def Block.hardReset (b : Block) : Block :=
  .reset b.cfg b.rstN { b.bufEpoch with resets := b.bufEpoch.resets + 1 }

/-- CTRL.SRST (70_reset_and_hazards.md R372): it keeps IRQ_EN, the timing registers, the buffer and the
synchronisers. The latched command fields and locals return to 0 (log 11). -/
def Block.softReset (b : Block) : Block :=
  { b with
    regs.statusOp := 0#5
    regs.events := 0#5
    regs.result := .zero
    regs.data := 0#8
    regs.cksum := ⟨0#8, 0#8, 0#8, 0#8⟩
    regs.advlen := 0#16
    seq := .reset
    xp := .reset
    out := .reset b.cfg
    tmr := .reset }

end Sys2Proof.Machine
end

