-- ==== Sys2Proof/Machine/Sequencer.lean ====
section
/-! DEFINITION. One step of the sequencer: the effect of each line of pseudocode (00_scope.md R17). A line
that waits stays where it is until its time or condition comes. A clk cycle has one such step
(60_exceptions.md R347), but for AwaitByte, which R347 completes in the cycle of its byte (Block.flows): its next
step then belongs to the same cycle. -/

namespace Sys2Proof.Machine

/-- One cycle of delay(t), t > 0 (41_handshake.md R214): PCNT counts the cycles of a tick, DCNT the ticks
done; both are back at 0 when the delay ends, after t·(DIV+1) cycles (log 23). -/
def Block.delayCycle (b : Block) (t : Half) (stay rest : List Line) : Block :=
  if b.tmr.pcnt < b.regs.tickdiv then
    { b with tmr.pcnt := b.tmr.pcnt + 1#16, seq.prog := .run stay }
  else if b.tmr.dcnt + 1#16 < t then
    { b with tmr.pcnt := 0#16, tmr.dcnt := b.tmr.dcnt + 1#16, seq.prog := .run stay }
  else
    { b with tmr.pcnt := 0#16, tmr.dcnt := 0#16 }.goto rest

/-- One clk cycle of a CLK half-period gone, counted by HPH (10_state.md R63). -/
def Block.countHalf (b : Block) : Block := { b with xp.hph := b.xp.hph + 1#16 }

/-- One cycle of hold: it goes on until the half-period has had its CLKDIV.DIV + 1 cycles, those of the half's other
lines among them (10_state.md R54; 40_transport.md R172; log 8). -/
def Block.holdCycle (b : Block) (stay rest : List Line) : Block :=
  if b.xp.hph < b.regs.clkdiv then { b.countHalf with seq.prog := .run stay }
  else { b with xp.hph := 0#16 }.goto rest

/-- XferI's d (40_transport.md R172): the bit written, or the bit sampled. -/
def Block.bitTaken (b : Block) : Dir → Level
  | .wr => b.xp.sh.getLsbD 0
  | .rd => b.sync.bit

/-- Whether a WAIT_* await ends in this cycle (41_handshake.md R212, R213). -/
def Block.waitMet (b : Block) : Wait → Bool
  | .rise => !b.sync.hsPrev && b.hsSample
  | .fall => b.sync.hsPrev && !b.hsSample
  | .high => b.hsSample
  | .low => !b.hsSample

/-- The result code of a comparison (42_framer.md R250; 43_checksum.md R305). -/
def matchCode (m : Bool) : ResultCode := if m then .ok else .cksumMismatch

/-- A change of the locals. -/
def Block.withLocs (b : Block) (l : Locals) : Block := { b with seq.locs := l }

/-- The for variable of a line that carries one. -/
def Block.setJ (b : Block) (j : Nat) : Block := { b with seq.locs.j := BitVec.ofNat 16 j }

/-- SH <- v, and the for variable of the line it stands in (40_transport.md R172, R175). -/
def Block.loadSh (b : Block) (v : Src) : Block :=
  let b1 := match v.index? with
    | some j => b.setJ j
    | none => b
  { b1 with xp.sh := b.srcByte v }

/-- The step of line `l`, with `rest` to follow; of a line that waits, one clk cycle of it. -/
def Block.runLine (b : Block) (l : Line) (rest : List Line) : Block :=
  match l with
  | .driveOe v => (b.driveOe v).goto rest
  | .driveOeFinish v => (b.driveOe v).finish .ok
  | .driveHs a => (b.driveHs (hsLevel b.cfg a)).goto rest
  | .driveHsFinish => (b.driveHs b.seq.lvlv).finish .ok
  | .delay d => b.delayCycle (b.ticks d) (.delay d :: rest) rest
  | .awaitHs a => if b.hsSample = hsLevel b.cfg a then b.goto rest else b
  | .waitFinish k => if b.waitMet k then b.finish .ok else b
  | .loadSh v => (b.loadSh v).goto rest
  | .armSh v => (b.loadSh v).goto rest
  | .sckLow => (b.driveSck false).countHalf.goto rest
  | .putBit => (b.driveData (b.xp.sh.getLsbD 0)).countHalf.goto rest
  | .sckHigh => (b.driveSck true).countHalf.goto rest
  | .takeBit dir => (b.withLocs { b.seq.locs with d := b.bitTaken dir }).countHalf.goto rest
  | .shiftBit => { b with xp.sh := shiftIn b.seq.locs.d b.xp.sh }.countHalf.goto rest
  | .countBit => { b with xp.bitcnt := b.xp.bitcnt + 1#3 }.countHalf.goto rest
  | .hold => b.holdCycle (.hold :: rest) rest
  | .takeSh => (b.withLocs { b.seq.locs with b := b.xp.sh }).goto rest
  | .clearDone => { b with xp.byteDone := false }.goto rest
  | .driveBit0 v => (b.driveData ((b.srcByte v).getLsbD 0)).goto rest
  | .arm => { b with xp.armed := true }.goto rest
  | .awaitByte => if b.xp.byteDone then b.goto rest else b
  | .takeDone _ => { b with xp.byteDone := false }.goto rest
  | .readData => (b.withLocs { b.seq.locs with b := b.regs.data }).goto rest
  | .writeData => { b with regs.data := b.seq.locs.b }.goto rest
  | .clearAcc a => (b.withLocs (b.seq.locs.setAcc a 0#8)).goto rest
  | .addBuf a j =>
    ((b.withLocs (b.seq.locs.setAcc a (b.seq.locs.accVal a + b.readBuf j))).setJ j).goto rest
  | .addB => (b.withLocs { b.seq.locs with acc := b.seq.locs.acc + b.seq.locs.b }).goto rest
  | .storeB j => ((b.writeBuf j b.seq.locs.b).setJ j).goto rest
  | .setN => (b.withLocs { b.seq.locs with n := b.seq.argv }).goto rest
  | .setCap =>
    (b.withLocs { b.seq.locs with
      cap := BitVec.ofNat 16 (min b.seq.argv.toNat b.cfg.bufSize.bytes) }).goto rest
  | .setLo => (b.withLocs { b.seq.locs with lo := b.seq.locs.b }).goto rest
  | .setHi => (b.withLocs { b.seq.locs with hi := b.seq.locs.b }).goto rest
  | .joinLen => (b.withLocs { b.seq.locs with len := b.seq.locs.hi ++ b.seq.locs.lo }).goto rest
  | .widenLen => (b.withLocs { b.seq.locs with len := b.seq.locs.b.setWidth 16 }).goto rest
  | .setAdvlen => { b with regs.advlen := b.seq.locs.len }.goto rest
  | .testOverrun =>
    if b.seq.locs.cap < b.seq.locs.len then b.goto overrunTail
    else b.goto (readRespTail b.seq.locs.len.toNat)
  | .showCompute => b.goto rest
  | .setCalc => { b with regs.cksum.calcA := b.seq.locs.acc }.goto rest
  | .setRxack => { b with regs.cksum.rxackA := b.seq.locs.b }.goto rest
  | .cksumStageA =>
    { b with regs.cksum.calcA := b.seq.locs.accA, regs.cksum.rxackA := b.readBuf 4 }.goto rest
  | .cksumStageB =>
    { b with regs.cksum.calcB := b.seq.locs.accB, regs.cksum.rxackB := b.readBuf 16 }.goto rest
  | .matchB => { b with regs.result.isMatch := decide (b.seq.locs.b = b.seq.locs.acc) }.goto rest
  | .matchData => { b with regs.result.isMatch := decide (b.seq.locs.acc = b.regs.data) }.goto rest
  | .matchStageA =>
    { b with regs.result.isMatch := decide (b.readBuf 4 = b.seq.locs.accA) }.goto rest
  | .matchStageB =>
    { b with regs.result.isMatchB := decide (b.readBuf 16 = b.seq.locs.accB) }.goto rest
  | .count n => { b with regs.result.count := BitVec.ofNat 16 n }.goto rest
  | .countN => { b with regs.result.count := b.seq.locs.n }.goto rest
  | .countLen => { b with regs.result.count := b.seq.locs.len }.goto rest
  | .xportClear =>
    { b with xp.sh := 0#8, xp.bitcnt := 0#3, xp.byteDone := false, xp.armed := false }.goto rest
  | .xportLines => ((b.driveOe false).driveData true).goto rest
  | .xportSck =>
    (match b.cfg.role with
      | .initiator => b.driveSck true
      | .responder => b).goto rest
  | .finish c => b.finish c
  | .finishMatchB => b.finish (matchCode (decide (b.seq.locs.b = b.seq.locs.acc)))
  | .finishMatchData => b.finish (matchCode (decide (b.seq.locs.acc = b.regs.data)))

/-- Whether the step after this line's belongs to the same clk cycle. A cycle has one sequencer step
(60_exceptions.md R347), but for AwaitByte once BYTE_DONE is set: it completes in the cycle of the edge, as R347
says too (log 28). -/
def Block.flows (b : Block) : Line → Bool
  | .sckLow => false
  | .putBit => false
  | .sckHigh => false
  | .takeBit _ => false
  | .shiftBit => false
  | .countBit => false
  | .awaitByte => b.xp.byteDone
  | .takeDone used => used
  | .driveOe _ => false
  | .driveOeFinish _ => false
  | .driveHs _ => false
  | .driveHsFinish => false
  | .delay _ => false
  | .awaitHs _ => false
  | .waitFinish _ => false
  | .loadSh _ => false
  | .armSh _ => false
  | .hold => false
  | .takeSh => false
  | .clearDone => false
  | .driveBit0 _ => false
  | .arm => false
  | .readData => false
  | .writeData => false
  | .clearAcc _ => false
  | .addBuf _ _ => false
  | .addB => false
  | .storeB _ => false
  | .setN => false
  | .setCap => false
  | .setLo => false
  | .setHi => false
  | .joinLen => false
  | .widenLen => false
  | .setAdvlen => false
  | .testOverrun => false
  | .showCompute => false
  | .setCalc => false
  | .setRxack => false
  | .cksumStageA => false
  | .cksumStageB => false
  | .matchB => false
  | .matchData => false
  | .matchStageA => false
  | .matchStageB => false
  | .count _ => false
  | .countN => false
  | .countLen => false
  | .xportClear => false
  | .xportLines => false
  | .xportSck => false
  | .finish _ => false
  | .finishMatchB => false
  | .finishMatchData => false

/-- One sequencer step (00_scope.md R17): the next line's. Pseudocode that ends without a finish ends with
finish(OK) (60_exceptions.md R331). -/
def Block.lineStep (b : Block) : Block :=
  match b.seq.prog with
  | .idle => b
  | .run [] => b.finish .ok
  | .run (l :: rest) => b.runLine l rest

/-- The next line's step leaves the clk cycle unfinished. -/
def Block.goesOn (b : Block) : Bool :=
  match b.seq.prog with
  | .idle => false
  | .run [] => false
  | .run (l :: _) => b.flows l

/-- One sequencer step, and whether the clk cycle is over after it. -/
def Block.seqStep (b : Block) : Block := { b.lineStep with seq.mid := b.goesOn }

end Sys2Proof.Machine
end

