-- ==== Sys2Proof/Machine/Cycle.lean ====
section
/-! DEFINITION. The clk cycle of a block, step by step in the order of 60_exceptions.md R347: synchronisers, edge
detectors and the responder's edge engine, the sequencer; the output registers are the state itself. -/

namespace Sys2Proof.Machine

/-- Shift a level into a synchroniser, newest stage first (10_state.md R64). -/
def shiftChain (v : Level) (chain : List Level) : List Level := (v :: chain).take chain.length

/-- The synchroniser shift (60_exceptions.md R347 item 1). An initiator has no sck_i. The bit that a sample of
this cycle takes is the last stage of data_i, or the draw `slip` where it is one (log 6, log 17). -/
def Block.syncShift (b : Block) (p : Pins) (slip : Option Level := none) : Block :=
  { b with
    sync.hs := shiftChain p.hs b.sync.hs
    sync.data := shiftChain p.data b.sync.data
    sync.bit := slip.getD (lastStage (shiftChain p.data b.sync.data))
    sync.sck := match b.cfg.role with
      | .initiator => b.sync.sck
      | .responder => shiftChain p.sck b.sync.sck }

/-- The bit that a sample takes in a further step of the cycle: as the cycle began, or the draw `slip` if DATA has no
single driver in this step (20_memory.md R104; log 6). -/
def Block.redraw (b : Block) (slip : Option Level) : Block := { b with sync.bit := slip.getD b.sync.bit }

/-- The engine's falling edge (40_transport.md R174). -/
def Block.engineFall (b : Block) : Block :=
  if b.out.dataOe then b.driveData (b.xp.sh.getLsbD 0) else b

/-- The engine's rising edge (40_transport.md R174): shift whether armed or not; the eighth bit sets
BYTE_DONE and disarms. -/
def Block.engineRise (b : Block) : Block :=
  let b1 := if b.xp.armed then b else b.raise .strayClk
  let b2 := { b1 with xp.sh := shiftIn b.sync.bit b.xp.sh }
  if b.xp.bitcnt = 7#3 then { b2 with xp.bitcnt := 0#3, xp.byteDone := true, xp.armed := false }
  else { b2 with xp.bitcnt := b.xp.bitcnt + 1#3 }

/-- The responder's edge engine (40_transport.md R174); an initiator has none. -/
def Block.edgeEngine (b : Block) : Block :=
  match b.cfg.role with
  | .initiator => b
  | .responder =>
    let s := b.sckSample
    let b1 :=
      if b.sync.sckPrev && !s then b.engineFall
      else if !b.sync.sckPrev && s then b.engineRise
      else b
    { b1 with sync.sckPrev := s }

/-- hs_prev follows the synchroniser every cycle (41_handshake.md R213; log 15). -/
def Block.latchPrev (b : Block) : Block := { b with sync.hsPrev := b.hsSample }

/-- The next step of the block's clock begins a clk cycle. -/
def Block.startsCycle (b : Block) : Bool := !b.rstN || !b.seq.mid

/-- One step of the block's clock with the input pins at `p`. A clk cycle begins with the synchronisers and the
edge engine, a sampled bit drawn as `slip` if it is a draw, and one sequencer step (60_exceptions.md R347); while
it has steps to come, each further step is the next line's (log 28). With rst_n = 0 a cycle is the reset of
70_reset_and_hazards.md R370. -/
def Block.clkStep (b : Block) (p : Pins) (slip : Option Level := none) : Block :=
  if !b.rstN then b.hardReset
  else if b.seq.mid then (b.redraw slip).seqStep
  else (((b.syncShift p slip).edgeEngine).seqStep).latchPrev

end Sys2Proof.Machine
end

