-- ==== Sys2Proof/Machine/HostPort.lean ====
section
/-! DEFINITION. The host port: MemRead and MemWrite on the 4 KiB window (20_memory.md R90 to R98) and the
register map (10_state.md R40 to R59). -/

namespace Sys2Proof.Machine

/-- The regions of the window (20_memory.md R94). -/
inductive Region where
  | registers
  | reserved
  | buffer
  deriving DecidableEq, Repr

/-- Which region an offset lies in (10_state.md R40; 20_memory.md R92). -/
def region (c : Config) (off : Nat) : Region :=
  if off < 0x40 then .registers
  else if off < bufOffset 0 then .reserved
  else if off < bufOffset c.bufSize.bytes then .buffer
  else .reserved

/-- Whether an access is of a width and alignment the map allows (20_memory.md R94). -/
def accessOk (c : Config) (off n : Nat) : Bool :=
  match region c off with
  | .registers => decide (n = 4) && decide (off % 4 = 0)
  | .reserved => decide (n = 4) && decide (off % 4 = 0)
  | .buffer =>
    (decide (n = 1) || decide (n = 2) || decide (n = 4)) && decide (off % n = 0) &&
      decide (off + n ≤ bufOffset c.bufSize.bytes)

/-- n buffer bytes from an offset on, little-endian, zero-extended (20_memory.md R95). -/
def Block.readBytes (b : Block) (off : Nat) : Nat → Word
  | 0 => 0#32
  | n + 1 => (b.readBytes (off + 1) n <<< 8) ||| (b.buf.readByte b.bufEpoch off).setWidth 32

/-- Write the low n bytes of v from an offset on, little-endian (20_memory.md R95). -/
def Memory.writeBytes (off : Nat) (v : Word) : Nat → Memory → Memory
  | 0, m => m
  | n + 1, m => Memory.writeBytes (off + 1) (v >>> 8) n (m.writeByte off (v.extractLsb' 0 8))

/-- A register or reserved offset as it reads (10_state.md R40; 20_memory.md R92): CTRL and CMD read 0. -/
def Block.readReg (b : Block) (off : Nat) : Word :=
  match off with
  | 0x000 => idWord
  | 0x004 => cfgWord b.cfg
  | 0x010 => b.statusWord
  | 0x014 => b.regs.events.setWidth 32
  | 0x018 => b.regs.irqEn.setWidth 32
  | 0x01C => b.regs.result.word
  | 0x020 => b.regs.data.setWidth 32
  | 0x024 => b.regs.cksum.word
  | 0x028 => b.regs.advlen.setWidth 32
  | 0x02C => b.regs.tickdiv.setWidth 32
  | 0x030 => b.regs.clkdiv.setWidth 32
  | 0x034 => b.regs.byteSettle.setWidth 32
  | 0x038 => b.regs.prepoll.setWidth 32
  | 0x03C => b.regs.extSettle.setWidth 32
  | _ => 0#32

/-- MemRead(addr, n): the data; 0 for an ERROR and while rst_n = 0 (20_memory.md R94;
70_reset_and_hazards.md R370). -/
def Block.hostRead (b : Block) (off n : Nat) : Word :=
  if !b.rstN then 0#32
  else if !accessOk b.cfg off n then 0#32
  else
    match region b.cfg off with
    | .buffer => b.readBytes off n
    | .registers => b.readReg off
    | .reserved => 0#32

/-- Whether an access is answered OKAY (20_memory.md R94; 70_reset_and_hazards.md R370). -/
def Block.hostOk (b : Block) (off n : Nat) : Bool := !b.rstN || accessOk b.cfg off n

/-- A write that is dropped while BUSY, with WR_IGNORED (10_state.md R41). -/
def Block.guarded (b : Block) (written : Block) : Block :=
  if b.busy then b.raise .wrIgnored else written

/-- A 4-byte write to a register offset (10_state.md R40 to R57); RO registers and reserved offsets ignore
it. -/
def Block.writeReg (b : Block) (off : Nat) (v : Word) : Block :=
  match off with
  | 0x008 => if v.getLsbD 0 then b.softReset else b
  | 0x00C => b.submitWord v
  | 0x014 => b.clearEvents v
  | 0x018 => { b with regs.irqEn := v.extractLsb' 0 5 }
  | 0x020 => b.guarded { b with regs.data := v.extractLsb' 0 8 }
  | 0x02C => b.guarded { b with regs.tickdiv := v.extractLsb' 0 16 }
  | 0x030 => b.guarded { b with regs.clkdiv := v.extractLsb' 0 16 }
  | 0x034 => b.guarded { b with regs.byteSettle := v.extractLsb' 0 16 }
  | 0x038 => b.guarded { b with regs.prepoll := v.extractLsb' 0 16 }
  | 0x03C => b.guarded { b with regs.extSettle := v.extractLsb' 0 16 }
  | _ => b

/-- MemWrite(addr, n, v): no effect for an ERROR (20_memory.md R94) or while rst_n = 0
(70_reset_and_hazards.md R370). -/
def Block.hostWrite (b : Block) (off n : Nat) (v : Word) : Block :=
  if !b.rstN then b
  else if !accessOk b.cfg off n then b
  else
    match region b.cfg off with
    | .buffer => b.guarded { b with buf := b.buf.writeBytes off v n }
    | .registers => b.writeReg off v
    | .reserved => b

/-- The effect of a host access on the block; a read has none (20_memory.md R96). -/
def Block.access (b : Block) : Access → Block
  | .read _ _ => b
  | .write addr n v => b.hostWrite addr.toNat n v

/-- What the port answers to a host access (20_memory.md R93). -/
def Block.reply (b : Block) (side : Side) : Access → Reply
  | .read addr n => ⟨side, b.hostRead addr.toNat n, b.hostOk addr.toNat n⟩
  | .write addr n _ => ⟨side, 0#32, b.hostOk addr.toNat n⟩

/-- A step of the block's clock with a host write of v to EVENTS in the same step (10_state.md R49): the host
clears, and a bit the step sets stays set. -/
def Block.clkStepClear (b : Block) (p : Pins) (v : Word) (slip : Option Level := none) : Block :=
  (b.hostWrite 0x014 4 v).clkStep p slip

end Sys2Proof.Machine
end

