-- ==== Sys2Proof/Machine/Bus.lean ====
section
/-! DEFINITION. The bus of one or two blocks (10_state.md R32; 60_exceptions.md R356), one step of the
schedule (20_memory.md R105), and an operation run from its submission until it completes or the
schedule ends. -/

namespace Sys2Proof.Machine

/-- The block on a side, if there is one. -/
def State.get (s : State) : Side → Option Block
  | .near => some s.near
  | .far => s.far

/-- The other side. -/
def Side.other : Side → Side
  | .near => .far
  | .far => .near

/-- Put a block on a side; an absent block stays absent. -/
def State.set (s : State) (side : Side) (b : Block) : State :=
  match side with
  | .near => { s with near := b }
  | .far => { s with far := s.far.map fun _ => b }

/-- The DATA line as wired between two blocks (10_state.md R32): the one driver's level; with no driver or
two, the draw `float` (20_memory.md R104; log 6). -/
def dataLine (b peer : Block) (float : Level) : Level :=
  match b.out.dataOe, peer.out.dataOe with
  | true, false => b.out.dataO
  | false, true => peer.out.dataO
  | false, false => float
  | true, true => float

/-- The levels at a block's input pins (10_state.md R32): the peer block's outputs if there is one, else the
environment's. -/
def State.pinsAt (s : State) (side : Side) (b : Block) (p : Pins) : Pins :=
  match s.get side.other with
  | some peer => ⟨peer.out.hsO, dataLine b peer p.data, peer.out.sckO⟩
  | none => p

/-- Both blocks drive DATA (20_memory.md R104). -/
def State.contending (s : State) : Bool :=
  match s.far with
  | some f => s.near.out.dataOe && f.out.dataOe
  | none => false

/-- Both blocks drive DATA or neither does, so no single driver gives its level (10_state.md R32). -/
def State.loose (s : State) : Bool :=
  match s.far with
  | some f => s.near.out.dataOe == f.out.dataOe
  | none => false

/-- Record CONTENTION; it is never cleared (20_memory.md R104). -/
def State.note (s : State) : State := { s with contention := s.contention || s.contending }

/-- The side an event belongs to. -/
def Event.side : Event → Side
  | .clk side _ => side
  | .host side _ => side
  | .clkClear side _ _ => side
  | .rst side _ => side

/-! ## Clock timing (70_reset_and_hazards.md R380; log 17) -/

/-- The initiator's side, the initiator and the responder, if the bus has one of each. -/
def State.pair? (s : State) : Option (Side × Block × Block) :=
  match s.far with
  | none => none
  | some f =>
    match s.near.cfg.role, f.cfg.role with
    | .initiator, .responder => some (.near, s.near, f)
    | .responder, .initiator => some (.far, f, s.near)
    | .initiator, .initiator => none
    | .responder, .responder => none

/-- Part (b) of R380: since the falling edge the responder has run S_R + 2 cycles and then the initiator
S_I + 1. -/
def Pace.bitArrived (k : Pace) (i r : Block) : Bool :=
  decide (r.cfg.syncStages + 2 ≤ k.rCycles) && decide (i.cfg.syncStages + 1 ≤ k.iCycles)

/-- Whether a data bit that the block on `side` samples now is one that R380 does not vouch for: part (a) was
violated in this byte, or the initiator made its rising edge too early for part (b). -/
def State.slips (s : State) (side : Side) : Bool :=
  match s.pair? with
  | none => false
  | some (is, _, _) => s.pace.slipped || (decide (side = is) && s.pace.late)

/-- The next step of the block's clock on `side` begins a clk cycle. -/
def State.atStart (s : State) (side : Side) : Bool :=
  match s.get side with
  | some b => b.startsCycle
  | none => false

/-- Whether a sample of data_i in the next step of the clock on `side` is a draw: DATA has no single driver in that
step (20_memory.md R104; 60_exceptions.md R356; log 6), or R380 does not vouch for the bit (log 17). -/
def State.drawn (s : State) (side : Side) : Bool := s.loose || s.slips side

/-- That draw, if it is one (93_implementation_defined.md I1, I2 and I10). -/
def State.slip (s : State) (side : Side) : Option Level :=
  if s.drawn side then some (Config.slipBit s.draws) else none

/-- The event is a step of its block's clock. -/
def Event.clocks : Event → Bool
  | .clk _ _ => true
  | .host _ _ => false
  | .clkClear _ _ _ => true
  | .rst _ _ => false

/-- The event begins a clk cycle of its block. -/
def State.begins (s : State) (e : Event) : Bool := e.clocks && s.atStart e.side

/-- XferI has made the rising edge of a bit and has still to take it, shift it in or count it. -/
def Block.takingBit (b : Block) : Bool :=
  match b.seq.prog with
  | .idle => false
  | .run ls =>
    decide (ls.head? ∈ [some (.takeBit .wr), some (.takeBit .rd), some .shiftBit, some .countBit])

/-- The clock timing after an event that leaves the initiator `i'`, `i` and `r` being the blocks before it; `begins` if
the event begins a clk cycle of its block. -/
def Pace.after (k : Pace) (i r i' : Block) (ofInitiator begins : Bool) : Pace :=
  if i'.out.sckO ≠ i.out.sckO then
    ⟨0, 0, k.slipped || decide (k.rCycles < 2),
      i'.out.sckO && decide (i.xp.bitcnt ≠ 0#3) && !k.bitArrived i r⟩
  else if !begins then k
  else if ofInitiator then
    if r.cfg.syncStages + 2 ≤ k.rCycles then
      { k with iCycles := min (i.cfg.syncStages + 1) (k.iCycles + 1) }
    else k
  else
    { k with
      rCycles := min (r.cfg.syncStages + 2) (k.rCycles + 1)
      slipped := k.slipped &&
        !(i.out.sckO && !i.takingBit && decide (i.xp.bitcnt = 0#3) &&
          decide (r.cfg.syncStages + 2 ≤ k.rCycles)) }

/-- The clock timing after an event that makes `b'` of its block. -/
def State.paceAfter (s : State) (e : Event) (b' : Block) : Pace :=
  match s.pair? with
  | none => s.pace
  | some (is, i, r) =>
    s.pace.after i r (if e.side = is then b' else i) (decide (e.side = is)) (s.begins e)

/-- The number of draws after an event: one more if it is a step of the clock that may take one. -/
def State.drawsAfter (s : State) (e : Event) : Nat :=
  if e.clocks && s.drawn e.side then s.draws + 1 else s.draws

/-! ## Steps -/

/-- What an event does to its block. -/
def State.act (s : State) (b : Block) : Event → Block
  | .clk side p => b.clkStep (s.pinsAt side b p) (s.slip side)
  | .host _ a => b.access a
  | .clkClear side p v => b.clkStepClear (s.pinsAt side b p) v (s.slip side)
  | .rst _ level => { b with rstN := level }

/-- What the host port answers in an event, if it is an access. -/
def Event.replies (b : Block) : Event → List Reply
  | .clk _ _ => []
  | .host side a => [b.reply side a]
  | .clkClear side _ v => [b.reply side (.write 0x014#12 4 v)]
  | .rst _ _ => []

/-- One atomic step of the total order (20_memory.md R105). An event for an absent block does nothing here;
step faults on it instead. -/
def State.apply (s : State) (e : Event) : State :=
  match s.get e.side with
  | some b =>
    { (s.set e.side (s.act b e)).note with
      pace := s.paceAfter e (s.act b e)
      draws := s.drawsAfter e
      replies := s.replies ++ e.replies b }
  | none => s

/-- The block on a side is there and runs an operation. -/
def State.running (s : State) (side : Side) : Bool :=
  match s.get side with
  | some b => b.busy
  | none => false

/-- The schedule's next event names a block that is there. -/
def State.present (s : State) (e : Event) : Bool := (s.get e.side).isSome

/-- Take steps from the schedule while the block on `side` runs its operation. What is left of the schedule
stays in env; an operation still running when it ends keeps waiting (00_scope.md R13). -/
def State.runWhile (side : Side) : List Event → State → State
  | [], s => { s with env := [] }
  | e :: es, s =>
    if s.running side && s.present e then State.runWhile side es (s.apply e)
    else { s with env := e :: es }

/-- The meaning every operation shares: the CMD write at the running port is handled as R124 says, and an
accepted operation runs its pseudocode over the schedule until it ends. A dropped or refused command runs
nothing; while rst_n = 0 the write has no effect (70_reset_and_hazards.md R370). -/
def State.operate (s : State) (i : Instr) (prog : Config → List Line) :
    Host.Outcome State Fault Refusal :=
  match s.get s.port with
  | none => .fault .absentBlock
  | some b =>
    if !b.rstN then .next s
    else
      let s1 := (s.set s.port (b.submit i (prog b.cfg))).note
      if b.busy then .next s1 else .next (State.runWhile s.port s1.env s1)

end Sys2Proof.Machine
end

