-- ==== Sys2Proof/Machine/Checksum.lean ====
section
/-! DEFINITION. The meanings of the checksum validator (43_checksum.md): CKSUM_COMPUTE. Each
submits its command (30_encoding.md R124) and runs its own pseudocode of Machine/Programs.lean. -/

namespace Sys2Proof.Machine

/-- CKSUM_COMPUTE, R305, 43_checksum.md: sum ARG buffer bytes and compare with DATA.BYTE. -/
def execCksumCompute (arg : Half) (lvl : Bool) (s : State) : Host.Outcome State Fault Refusal :=
  s.operate (.cksumCompute arg lvl) (fun _ => cksumComputeProg arg.toNat)

end Sys2Proof.Machine
end

