-- ==== Sys2Proof/Machine/Framer.lean ====
section
/-! DEFINITION. The meanings of the packet framer (42_framer.md): SEND_CMD, READ_RESP, EXT_PACKET, RSP_READ_CKSUM and RSP_WRITE_CKSUM. Each
submits its command (30_encoding.md R124) and runs its own pseudocode of Machine/Programs.lean. -/

namespace Sys2Proof.Machine

/-- SEND_CMD, R250, 42_framer.md: send buf[0..3] and check the responder's ack. -/
def execSendCmd (arg : Half) (lvl : Bool) (s : State) : Host.Outcome State Fault Refusal :=
  s.operate (.sendCmd arg lvl) (fun _ => sendCmdProg)

/-- READ_RESP, R260, 42_framer.md: read a length-prefixed response of at most ARG bytes. -/
def execReadResp (arg : Half) (lvl : Bool) (s : State) : Host.Outcome State Fault Refusal :=
  s.operate (.readResp arg lvl) (fun c => readRespProg c.rev)

/-- EXT_PACKET, R270, 42_framer.md: the two-stage extended frame. -/
def execExtPacket (arg : Half) (lvl : Bool) (s : State) : Host.Outcome State Fault Refusal :=
  s.operate (.extPacket arg lvl) (fun _ => extPacketProg)

/-- RSP_READ_CKSUM, R280, 42_framer.md: read ARG bytes and send their checksum. -/
def execRspReadCksum (arg : Half) (lvl : Bool) (s : State) : Host.Outcome State Fault Refusal :=
  s.operate (.rspReadCksum arg lvl) (fun _ => rspReadCksumProg arg.toNat)

/-- RSP_WRITE_CKSUM, R290, 42_framer.md: send prefix, ARG bytes and their checksum. -/
def execRspWriteCksum (arg : Half) (lvl : Bool) (s : State) : Host.Outcome State Fault Refusal :=
  s.operate (.rspWriteCksum arg lvl) (fun c => rspWriteCksumProg c.rev arg.toNat)

end Sys2Proof.Machine
end

