-- ==== Sys2Proof/Machine/Handshake.lean ====
section
/-! DEFINITION. The meanings of the handshake and timing operations (41_handshake.md): NOP, the four waits, HS_DRIVE and DELAY. Each
submits its command (30_encoding.md R124) and runs its own pseudocode of Machine/Programs.lean. -/

namespace Sys2Proof.Machine

/-- NOP, R236, 41_handshake.md: it does nothing. -/
def execNop (arg : Half) (lvl : Bool) (s : State) : Host.Outcome State Fault Refusal :=
  s.operate (.nop arg lvl) (fun _ => nopProg)

/-- WAIT_RISE, R230, 41_handshake.md: wait for a rising edge of the peer's handshake line. -/
def execWaitRise (arg : Half) (lvl : Bool) (s : State) : Host.Outcome State Fault Refusal :=
  s.operate (.waitRise arg lvl) (fun _ => waitProg .rise)

/-- WAIT_FALL, R231, 41_handshake.md: wait for a falling edge of the peer's handshake line. -/
def execWaitFall (arg : Half) (lvl : Bool) (s : State) : Host.Outcome State Fault Refusal :=
  s.operate (.waitFall arg lvl) (fun _ => waitProg .fall)

/-- WAIT_HIGH, R232, 41_handshake.md: wait until the peer's handshake line is high. -/
def execWaitHigh (arg : Half) (lvl : Bool) (s : State) : Host.Outcome State Fault Refusal :=
  s.operate (.waitHigh arg lvl) (fun _ => waitProg .high)

/-- WAIT_LOW, R233, 41_handshake.md: wait until the peer's handshake line is low. -/
def execWaitLow (arg : Half) (lvl : Bool) (s : State) : Host.Outcome State Fault Refusal :=
  s.operate (.waitLow arg lvl) (fun _ => waitProg .low)

/-- HS_DRIVE, R234, 41_handshake.md: drive the own handshake line to the level LVL. -/
def execHsDrive (arg : Half) (lvl : Bool) (s : State) : Host.Outcome State Fault Refusal :=
  s.operate (.hsDrive arg lvl) (fun _ => hsDriveProg)

/-- DELAY, R235, 41_handshake.md: wait ARG ticks. -/
def execDelay (arg : Half) (lvl : Bool) (s : State) : Host.Outcome State Fault Refusal :=
  s.operate (.delay arg lvl) (fun _ => delayProg)

end Sys2Proof.Machine
end

