-- ==== Sys2Proof/Machine/Transport.lean ====
section
/-! DEFINITION. The meanings of the transport operations (40_transport.md): WRITE_BYTE, READ_BYTE, DATA_ACQUIRE, DATA_RELEASE and XPORT_RESET. Each
submits its command (30_encoding.md R124) and runs its own pseudocode of Machine/Programs.lean. -/

namespace Sys2Proof.Machine

/-- WRITE_BYTE, R180, 40_transport.md: send DATA.BYTE, with no handshake. -/
def execWriteByte (arg : Half) (lvl : Bool) (s : State) : Host.Outcome State Fault Refusal :=
  s.operate (.writeByte arg lvl) (fun c => writeByteProg c.role)

/-- READ_BYTE, R181, 40_transport.md: receive one byte into DATA.BYTE, with no handshake. -/
def execReadByte (arg : Half) (lvl : Bool) (s : State) : Host.Outcome State Fault Refusal :=
  s.operate (.readByte arg lvl) (fun c => readByteProg c.role)

/-- DATA_ACQUIRE, R182, 40_transport.md: take ownership of the data line. -/
def execDataAcquire (arg : Half) (lvl : Bool) (s : State) : Host.Outcome State Fault Refusal :=
  s.operate (.dataAcquire arg lvl) (fun _ => dataAcquireProg)

/-- DATA_RELEASE, R183, 40_transport.md: give up ownership of the data line. -/
def execDataRelease (arg : Half) (lvl : Bool) (s : State) : Host.Outcome State Fault Refusal :=
  s.operate (.dataRelease arg lvl) (fun _ => dataReleaseProg)

/-- XPORT_RESET, R184, 40_transport.md: reset the transport state. -/
def execXportReset (arg : Half) (lvl : Bool) (s : State) : Host.Outcome State Fault Refusal :=
  s.operate (.xportReset arg lvl) (fun _ => xportResetProg)

end Sys2Proof.Machine
end

