-- ==== Sys2Proof/Machine/Dispatch.lean ====
section
/-! DEFINITION. One arm per operation of the opcode map (30_encoding.md R122). -/

namespace Sys2Proof.Machine

def exec (i : Instr) (s : State) : Host.Outcome State Fault Refusal :=
  match i with
  | .nop arg lvl => Sys2Proof.Machine.execNop arg lvl s
  | .writeByte arg lvl => Sys2Proof.Machine.execWriteByte arg lvl s
  | .readByte arg lvl => Sys2Proof.Machine.execReadByte arg lvl s
  | .waitRise arg lvl => Sys2Proof.Machine.execWaitRise arg lvl s
  | .waitFall arg lvl => Sys2Proof.Machine.execWaitFall arg lvl s
  | .waitHigh arg lvl => Sys2Proof.Machine.execWaitHigh arg lvl s
  | .waitLow arg lvl => Sys2Proof.Machine.execWaitLow arg lvl s
  | .hsDrive arg lvl => Sys2Proof.Machine.execHsDrive arg lvl s
  | .dataAcquire arg lvl => Sys2Proof.Machine.execDataAcquire arg lvl s
  | .dataRelease arg lvl => Sys2Proof.Machine.execDataRelease arg lvl s
  | .delay arg lvl => Sys2Proof.Machine.execDelay arg lvl s
  | .xportReset arg lvl => Sys2Proof.Machine.execXportReset arg lvl s
  | .cksumCompute arg lvl => Sys2Proof.Machine.execCksumCompute arg lvl s
  | .sendCmd arg lvl => Sys2Proof.Machine.execSendCmd arg lvl s
  | .readResp arg lvl => Sys2Proof.Machine.execReadResp arg lvl s
  | .extPacket arg lvl => Sys2Proof.Machine.execExtPacket arg lvl s
  | .rspReadCksum arg lvl => Sys2Proof.Machine.execRspReadCksum arg lvl s
  | .rspWriteCksum arg lvl => Sys2Proof.Machine.execRspWriteCksum arg lvl s

end Sys2Proof.Machine
end

