-- ==== Sys2Proof/Machine/Fetch.lean ====
section
/-! DEFINITION. How a command comes to run: which event of the schedule is a command, and the schedule that
submits one command word. The block fetches no instructions (10_state.md R34): the host writes them to
CMD. -/

namespace Sys2Proof.Machine

/-- The word a host writes to CMD in an event: a 4-byte write to offset 0x00C (30_encoding.md R124). -/
def Event.cmdWord? : Event → Option Word
  | .host _ (.write addr n w) => if addr = 0x00C#12 ∧ n = 4 then some w else none
  | .host _ (.read _ _) => none
  | .clk _ _ => none
  | .clkClear _ _ _ => none
  | .rst _ _ => none

/-- The operation an event submits, if it is a CMD write of a word that decodes. -/
def Event.instr? (e : Event) : Option Instr :=
  match e.cmdWord? with
  | none => none
  | some w =>
    match decode w with
    | .instr i => some i
    | .reject _ => none

/-- The state in which the command of event `e` is run: the event taken, its port noted, and the write
answered. -/
def State.atPort (s : State) (e : Event) (es : List Event) (b : Block) : State :=
  { s with env := es, port := e.side, replies := s.replies ++ e.replies b }

/-- The pin levels of a peer at rest (70_reset_and_hazards.md R374), DATA read as 1. -/
def restPins (c : Config) : Pins := ⟨deasserted c, true, true⟩

/-- Clock cycles in which a submitted command can run: `n` of each block that is there, in turn. -/
def State.clocks (s : State) (n : Nat) : List Event :=
  (List.replicate n
    ([.clk .near (restPins s.near.cfg)] ++
      match s.far with
      | some f => [.clk .far (restPins f.cfg)]
      | none => [])).flatten

/-- The port at which a word is submitted: that of the block whose role accepts it, the near one if both or
neither do (log 5). -/
def State.portFor (s : State) (w : Word) : Side :=
  match decode w, s.far with
  | .instr i, some f =>
    if !roleAccepts s.near.cfg.role i && roleAccepts f.cfg.role i then .far else .near
  | .instr _, none => .near
  | .reject _, _ => .near

end Sys2Proof.Machine
end

