-- ==== Sys2Proof/Machine/Step.lean ====
section
/-! DEFINITION. One step of the machine: the next event of the schedule (20_memory.md R105; log 3). A CMD
write that decodes runs its operation (log 4); with nothing scheduled, nothing happens. -/

namespace Sys2Proof.Machine

def step (s : State) : Host.Outcome State Fault Refusal :=
  match s.env with
  | [] => .next s
  | e :: es =>
    match s.get e.side with
    | none => .fault .absentBlock
    | some b =>
      match e.instr? with
      | some i => exec i (s.atPort e es b)
      | none => .next ({ s with env := es }.apply e)

/-- Schedule the command word whose low `nbits` bits are those of `w`: the host writes it to CMD, and each
block's clock then runs 16 cycles (log 5). -/
def State.withFetchWord (s : State) (nbits w : Nat) : State :=
  let word : Word := BitVec.ofNat 32 (w % 2 ^ nbits)
  { s with env := .host (s.portFor word) (.write 0x00C#12 4 word) :: (s.clocks 16 ++ s.env) }

end Sys2Proof.Machine
end

