-- ==== Sys2Proof/Safety.lean ====
section
/-! DEFINITION. What the claims about the machine are stated in: the checksum function, the shape of a
schedule, the state an operation is submitted in, the invariant of a block and of the bus, and what a safe
state is. -/

namespace Sys2Proof.Machine

/-! ## The checksum -/

/-- The checksum of a byte sequence: the unsigned sum mod 256, 0x00 for none (43_checksum.md R300). -/
def cksum : List Byte → Byte
  | [] => 0#8
  | v :: vs => v + cksum vs

/-- The buffer bytes buf[lo] to buf[lo+n-1]. -/
def Block.bufBytes (b : Block) (lo n : Nat) : List Byte := (List.range' lo n).map b.readBuf

/-! ## Schedules -/

/-- An event is a step of a block's clock and nothing else. -/
def Event.isClk : Event → Bool
  | .clk _ _ => true
  | .host _ _ => false
  | .clkClear _ _ _ => false
  | .rst _ _ => false

/-- Steps of one block's clock, with these levels at its free pins. -/
def clks (side : Side) (ps : List Pins) : List Event := ps.map (Event.clk side)

/-- The steps of the two blocks' clocks in turn, n of each, with DATA drawn as `float` while it floats. -/
def lockstep (float : Level) : Nat → List Event
  | 0 => []
  | n + 1 =>
    .clk .near ⟨true, float, true⟩ :: .clk .far ⟨true, float, true⟩ :: lockstep float n

/-! ## The state an operation is submitted in -/

/-- The block at the running port is there, out of reset and idle. -/
def State.idleAt (s : State) (b : Block) : Prop :=
  s.get s.port = some b ∧ b.rstN = true ∧ b.busy = false

/-- The block at the running port will accept the operation (30_encoding.md R125). -/
def State.readyFor (s : State) (i : Instr) (b : Block) : Prop :=
  s.idleAt b ∧ b.check i = .ok

/-- The block is alone: its input pins are the environment's (00_scope.md R12). -/
def State.aloneFor (s : State) (i : Instr) (b : Block) : Prop :=
  s.far = none ∧ s.port = .near ∧ s.readyFor i b

/-- The responder's synchronised clock has stood high: no edge is on its way (40_transport.md R170). -/
def Block.clockQuiet (b : Block) : Prop :=
  b.sync.sckPrev = true ∧ ∀ v ∈ b.sync.sck, v = true

/-- Cycles of a delay of t ticks (41_handshake.md R214). -/
def Block.delayCycles (b : Block) (t : Half) : Nat := t.toNat * (b.regs.tickdiv.toNat + 1)

/-- Cycles of a CLK half-period (10_state.md R54), where its lines leave room for it. -/
def Block.halfPeriod (b : Block) : Nat := b.regs.clkdiv.toNat + 1

/-- Cycles of the low half of a bit period: DIV + 1, and never fewer than it has lines, one step a cycle
(60_exceptions.md R347; log 8). -/
def Block.lowHalf (b : Block) : Dir → Nat
  | .wr => max b.halfPeriod 3
  | .rd => max b.halfPeriod 2

/-- Cycles of the high half of a bit period, likewise. -/
def Block.highHalf (b : Block) : Nat := max b.halfPeriod 5

/-- Cycles of a bit period. -/
def Block.bitCycles (b : Block) (d : Dir) : Nat := b.lowHalf d + b.highHalf

/-- The levels that come out of the data_i synchroniser in successive clk cycles: first what it holds, oldest
first, then the pin's levels (10_state.md R64). Entry m is the output after m shifts. -/
def Block.dataStream (b : Block) (ps : List Pins) : List Level :=
  b.sync.data.reverse ++ ps.map Pins.data

/-- The same for the hs_i synchroniser (41_handshake.md R211). -/
def Block.hsStream (b : Block) (ps : List Pins) : List Level :=
  b.sync.hs.reverse ++ ps.map Pins.hs

/-- What a WAIT_* operation waits for, between one cycle's synchronised level and the next
(41_handshake.md R212, R213). -/
def Wait.seen (k : Wait) (prev now : Level) : Prop :=
  match k with
  | .rise => prev = false ∧ now = true
  | .fall => prev = true ∧ now = false
  | .high => now = true
  | .low => now = false

/-- The WAIT_* operation of a kind (30_encoding.md R122). -/
def Wait.instr (k : Wait) (arg : Half) (lvl : Bool) : Instr :=
  match k with
  | .rise => .waitRise arg lvl
  | .fall => .waitFall arg lvl
  | .high => .waitHigh arg lvl
  | .low => .waitLow arg lvl

/-- The operation has completed with a result: the block is idle, RESULT holds it, DONE is set and ERR tells
whether the code is an error, and STATUS.OP names the operation (60_exceptions.md R331). -/
def Block.finishedWith (b : Block) (r : Result) (op : BitVec 5) : Prop :=
  b.busy = false ∧ b.regs.result = r ∧ b.event .done = true ∧ b.event .err = r.code.isError ∧
    b.regs.statusOp = op

/-- The bits of bytes as they cross the wire, bit 0 of the first byte first (20_memory.md R99), each with whether
the block at hand drives DATA (10_state.md R31). -/
def wireBytes (driven : Bool) (bytes : List Byte) : List (Bool × Level) :=
  bytes.flatMap fun v => (List.range 8).map fun k => (driven, v.getLsbD k)

/-- The length prefix of a response of n payload bytes: 16 bits, low byte first, in REV_A, and 8 bits in REV_B
(20_memory.md R100; 42_framer.md R290). -/
def lenPrefix (v : Rev) (n : Half) : List Byte :=
  match v with
  | .revA => [n.extractLsb' 0 8, n.extractLsb' 8 8]
  | .revB => [n.extractLsb' 0 8]

/-- The lines still to run; none while IDLE. -/
def Prog.lines : Prog → List Line
  | .idle => []
  | .run ls => ls

/-- A bit of DATA is taken in the step from `b` to `b'`: an initiator takes it in the line after its rising edge, a
responder's engine at the rising edge it sees (40_transport.md R172, R174). -/
def Block.takesBit (b b' : Block) : Bool :=
  match b.cfg.role with
  | .initiator => decide (b.seq.prog.lines.head? ∈ [some (.takeBit .wr), some (.takeBit .rd)])
  | .responder => !b.sync.sckPrev && b'.sync.sckPrev

/-- The peer's handshake line has stood DEASSERTED: none of its synchroniser's stages shows more
(41_handshake.md R220). -/
def Block.hsQuiet (b : Block) : Prop := ∀ v ∈ b.sync.hs, v = deasserted b.cfg

/-- What a block alone puts on or takes from DATA at each rising edge of CLK while its operation runs: whether it drives
the line, and the level it drives or samples. -/
def Block.wire : List Pins → Block → List (Bool × Level)
  | [], _ => []
  | p :: ps, b =>
    if b.busy then
      let b' := b.clkStep p
      (if b.takesBit b' then [(b'.out.dataOe, if b'.out.dataOe then b'.out.dataO else b'.sync.bit)] else []) ++
        b'.wire ps
    else []

/-- A responder's transport at a byte boundary: nothing counted, nothing armed, no stray edge so far
(40_transport.md R174, R175). -/
def Block.atByteBoundary (b : Block) : Prop :=
  b.xp.bitcnt = 0#3 ∧ b.xp.armed = false ∧ b.event .strayClk = false

/-- The handshake line, the clock and the ownership of DATA are driven alike. -/
def Outputs.sameDrive (o o' : Outputs) : Prop :=
  o'.hsO = o.hsO ∧ o'.sckO = o.sckO ∧ o'.dataOe = o.dataOe

/-- Every byte of the buffer reads alike, but for the offsets in `except`. -/
def Block.sameBytesExcept (b b' : Block) (except : Nat → Prop) : Prop :=
  ∀ off, ¬ except off → b'.buf.readByte b'.bufEpoch off = b.buf.readByte b.bufEpoch off

/-- What no operation writes: the build parameters, the reset pin, IRQ_EN, the timing registers, and the
events that only host writes raise, STRAY_CLK too on an initiator (10_state.md R41, R49). -/
def Block.sameSettings (b b' : Block) : Prop :=
  b'.cfg = b.cfg ∧ b'.rstN = b.rstN ∧ b'.regs.irqEn = b.regs.irqEn ∧
    b'.regs.tickdiv = b.regs.tickdiv ∧ b'.regs.clkdiv = b.regs.clkdiv ∧
    b'.regs.byteSettle = b.regs.byteSettle ∧ b'.regs.prepoll = b.regs.prepoll ∧
    b'.regs.extSettle = b.regs.extSettle ∧
    b'.event .cmdIgnored = b.event .cmdIgnored ∧ b'.event .wrIgnored = b.event .wrIgnored ∧
    (b.cfg.role = .initiator → b'.event .strayClk = b.event .strayClk)

/-! ## The invariant -/

/-- A byte to send that lies in the buffer, if it is one of the buffer (20_memory.md R103). -/
def Src.legal (c : Config) : Src → Bool
  | .buf j => decide (j < c.bufSize.bytes)
  | .locB => true
  | .acc => true
  | .nLo => true
  | .nHi => true

/-- Lines a block of this build can come to: buffer indices in range (20_memory.md R103), the initiator's
transport only on an initiator and the responder's only on a responder (40_transport.md R171). -/
def Line.legal (c : Config) : Line → Bool
  | .sckLow => decide (c.role = .initiator)
  | .putBit => decide (c.role = .initiator)
  | .sckHigh => decide (c.role = .initiator)
  | .takeBit _ => decide (c.role = .initiator)
  | .shiftBit => decide (c.role = .initiator)
  | .countBit => decide (c.role = .initiator)
  | .hold => decide (c.role = .initiator)
  | .testOverrun => decide (c.role = .initiator)
  | .clearDone => decide (c.role = .responder)
  | .driveBit0 _ => decide (c.role = .responder)
  | .arm => decide (c.role = .responder)
  | .awaitByte => decide (c.role = .responder)
  | .takeDone _ => decide (c.role = .responder)
  | .loadSh v => decide (c.role = .initiator) && v.legal c
  | .armSh v => decide (c.role = .responder) && v.legal c
  | .addBuf _ j => decide (j < c.bufSize.bytes)
  | .storeB j => decide (j < c.bufSize.bytes)
  | .driveOe _ => true
  | .driveOeFinish _ => true
  | .driveHs _ => true
  | .driveHsFinish => true
  | .delay _ => true
  | .awaitHs _ => true
  | .waitFinish _ => true
  | .takeSh => true
  | .readData => true
  | .writeData => true
  | .clearAcc _ => true
  | .addB => true
  | .setN => true
  | .setCap => true
  | .setLo => true
  | .setHi => true
  | .joinLen => true
  | .widenLen => true
  | .setAdvlen => true
  | .showCompute => true
  | .setCalc => true
  | .setRxack => true
  | .cksumStageA => true
  | .cksumStageB => true
  | .matchB => true
  | .matchData => true
  | .matchStageA => true
  | .matchStageB => true
  | .count _ => true
  | .countN => true
  | .countLen => true
  | .xportClear => true
  | .xportLines => true
  | .xportSck => true
  | .finish _ => true
  | .finishMatchB => true
  | .finishMatchData => true

/-- The next line is a delay. -/
def Prog.inDelay : Prog → Bool
  | .run (.delay _ :: _) => true
  | .run _ => false
  | .idle => false

/-- A line of a bit period that an edge of CLK comes before in its half. -/
def Line.inHalf (l : Line) : Bool :=
  decide (l ∈ [.putBit, .takeBit .wr, .takeBit .rd, .shiftBit, .countBit, .hold])

/-- The next line is such a line. -/
def Prog.inHalf (p : Prog) : Bool := p.lines.head?.any Line.inHalf

/-- Every half of a bit period to come runs on to its hold (40_transport.md R172). -/
def halvesClosed : List Line → Bool
  | [] => true
  | l :: ls =>
    (if (l.inHalf && decide (l ≠ .hold)) || decide (l ∈ [.sckLow, .sckHigh]) then ls.head?.any Line.inHalf
      else true) && halvesClosed ls

/-- An overrun test is to come and the cap it reads is already set (42_framer.md R260). -/
def capSettled : List Line → Bool
  | [] => false
  | l :: ls => if l = .testOverrun then true else if l = .setCap then false else capSettled ls

/-- What holds of a block in every run: the buffer in canonical form and inside its size; synchroniser
chains of SYNC_STAGES levels, whose last output the edge detectors remember; while an operation runs, RESULT.CODE = NONE and DONE = ERR = 0
(60_exceptions.md R353); an initiator never armed and never stray (10_state.md R49, R63); a responder's sck_o,
which it lacks, at 1; only legal lines to come;
READ_RESP's cap within the buffer once it is set (42_framer.md R260); the counters of delay and of a half-period at 0 outside them
(10_state.md R63, R65), every half of a bit period with its hold to come; no clk cycle left unfinished by an idle block,
nor ever by an initiator, which has one step a cycle (60_exceptions.md R347). -/
structure Block.Inv (b : Block) : Prop where
  cfgWf : b.cfg.wf = true
  bufWf : b.buf.wf = true
  bufWithin : b.buf.within b.cfg.bufSize.bytes = true
  hsStages : b.sync.hs.length = b.cfg.syncStages
  dataStages : b.sync.data.length = b.cfg.syncStages
  sckStages : b.sync.sck.length = b.cfg.syncStages
  hsPrevTracks : b.sync.hsPrev = lastStage b.sync.hs
  sckPrevTracks : b.sync.sckPrev = lastStage b.sync.sck
  running : b.busy = true →
    b.regs.result.code = .none ∧ b.event .done = false ∧ b.event .err = false
  initiator : b.cfg.role = .initiator →
    b.xp.armed = false ∧ b.xp.byteDone = false ∧ b.event .strayClk = false
  responder : b.cfg.role = .responder → b.out.sckO = true
  legal : ∀ l ∈ b.seq.prog.lines, l.legal b.cfg = true
  capBound : capSettled b.seq.prog.lines = true → b.seq.locs.cap.toNat ≤ b.cfg.bufSize.bytes
  timersRest : b.seq.prog.inDelay = false → b.tmr = .reset
  holdRest : b.seq.prog.inHalf = false → b.xp.hph = 0#16
  halves : halvesClosed b.seq.prog.lines = true
  midRuns : b.seq.mid = true → b.busy = true
  oneStep : b.cfg.role = .initiator → b.seq.mid = false

/-- The invariant of the bus: every block's, no contention goes unrecorded (20_memory.md R104), and the blocks'
unwritten bytes are no shared values (log 2). -/
structure State.Inv (s : State) : Prop where
  near : s.near.Inv
  far : ∀ f, s.far = some f → f.Inv
  noted : s.contending = true → s.contention = true
  nearBytes : s.near.bufEpoch.side = .near
  farBytes : ∀ f, s.far = some f → f.bufEpoch.side = .far

/-- A safe state: at no step so far did both blocks drive DATA (10_state.md R31; 41_handshake.md R217 (f)). -/
def State.safe (s : State) : Bool := !s.contention

end Sys2Proof.Machine
end

