-- ==== Sys2Proof/Certificates/Slice0/Obligations.lean ====
section
/-! DEFINITION. The statements about the machine, for the provers. Each docstring names the rule of spec/ it
formalises, or says that it is derived and from what. Statements about exec are about runs over the model's
schedule (log 3, log 4, the model's choice), of which an event clk is one step of a block's clock: one line of
pseudocode, which takes one clk cycle (60_exceptions.md R347; log 7, log 9), but for those of AwaitByte, which R347 puts in one
cycle (log 28). -/

open Sys2Proof Sys2Proof.Machine

/-! ## Encoding (30_encoding.md) -/

/-- Derived from R120 to R124: decoding the encoding of an operation gives it back, with ARG and LVL at every
value. -/
def Obligations.DecodeOfEncode : Prop :=
  ∀ i : Instr, decode (encode i) = .instr i

/-- Derived from R120 to R123: a word that decodes is the encoding of what it decodes to, so no two words
stand for one operation with its don't-care bits. -/
def Obligations.EncodeOfDecode : Prop :=
  ∀ (w : Word) (i : Instr), decode w = .instr i → encode i = w

/-- Derived from R128: the assembled word is (argv << 16) | (lvl << 8) | op. -/
def Obligations.EncodeIsAssemblerFormula : Prop :=
  ∀ i : Instr,
    (encode i).toNat = i.arg.toNat * 2 ^ 16 + i.lvl.toNat * 2 ^ 8 + i.opcode.toNat

/-- Derived from R123: the words that are no command are exactly those with a reserved bit set or an
unassigned OP. -/
def Obligations.RejectedWordsAreTheReservedOnes : Prop :=
  ∀ w : Word, (∃ r, decode w = .reject r) ↔
    (w.extractLsb' 5 3 ≠ 0#3 ∨ w.extractLsb' 9 7 ≠ 0#7 ∨
      (0x0D ≤ (w.extractLsb' 0 5).toNat ∧ (w.extractLsb' 0 5).toNat ≤ 0x0F) ∨
      (0x13 ≤ (w.extractLsb' 0 5).toNat ∧ (w.extractLsb' 0 5).toNat ≤ 0x17) ∨
      0x1A ≤ (w.extractLsb' 0 5).toNat)

/-- Derived from R122 and R128: words the spec writes out decode to the operations it names. -/
def Obligations.SpecWordsDecode : Prop :=
  decode 0x00000000#32 = .instr (.nop 0#16 false) ∧
  decode 0x00000107#32 = .instr (.hsDrive 0#16 true) ∧
  decode 0x0064000A#32 = .instr (.delay 100#16 false) ∧
  decode 0x0004000C#32 = .instr (.cksumCompute 4#16 false) ∧
  decode 0x00080011#32 = .instr (.readResp 8#16 false) ∧
  decode 0x00050019#32 = .instr (.rspWriteCksum 5#16 false) ∧
  decode 0x0000001F#32 = .reject .unassignedOp

/-! ## The step -/

/-- Derived from R124 and 20_memory.md R105 (log 3, log 4): when the next event is a host write to CMD of a word
that decodes to i, step is exec of i, with the event taken, its port noted and the write answered OKAY. -/
def Obligations.StepRunsSubmittedCommand : Prop :=
  ∀ (s : State) (side : Side) (w : Word) (es : List Event) (b : Block) (i : Instr),
    s.env = .host side (.write 0x00C#12 4 w) :: es → s.get side = some b → decode w = .instr i →
    step s = exec i { s with
      env := es
      port := side
      replies := s.replies ++ [⟨side, 0#32, true⟩] }

/-- Derived from 20_memory.md R105 (log 3, log 20): every other event of a block that is there is one atomic step,
an event of an absent block stops the machine, and an empty schedule changes nothing. -/
def Obligations.StepTakesOtherEvents : Prop :=
  ∀ s : State,
    (s.env = [] → step s = .next s) ∧
    ∀ (e : Event) (es : List Event), s.env = e :: es →
      (s.get e.side = none → step s = .fault .absentBlock) ∧
      ((s.get e.side).isSome = true →
        (∀ (w : Word) (i : Instr), e = .host e.side (.write 0x00C#12 4 w) → decode w ≠ .instr i) →
        step s = .next ({ s with env := es }.apply e))

/-- Derived from R124 (log 5): with withFetchWord the very next step runs the operation its word decodes to, on the
same blocks. -/
def Obligations.FetchedWordRunsNext : Prop :=
  ∀ (s : State) (nbits w : Nat) (i : Instr), decodeTableWord nbits w = some i →
    ∃ s' : State, step (s.withFetchWord nbits w) = exec i s' ∧ s'.near = s.near ∧ s'.far = s.far ∧
      s'.contention = s.contention ∧ (s'.get s'.port).isSome = true

/-! ## Reset (10_state.md R67; 70_reset_and_hazards.md) -/

/-- Derived from 10_state.md R67 and R370: a clk cycle with rst_n = 0 gives every piece of state but the buffer its
value after rst_n. -/
def Obligations.RstNGivesResetValues : Prop :=
  ∀ (b : Block) (p : Pins), b.rstN = false →
    let b' := b.clkStep p
    b'.cfg = b.cfg ∧ b'.busy = false ∧ b'.irq = false ∧
    b'.regs.statusOp = 0#5 ∧ b'.regs.events = 0#5 ∧ b'.regs.irqEn = 0#5 ∧
    b'.regs.result = ⟨.none, false, false, 0#16⟩ ∧ b'.regs.data = 0#8 ∧
    b'.regs.cksum = ⟨0#8, 0#8, 0#8, 0#8⟩ ∧ b'.regs.advlen = 0#16 ∧
    b'.regs.tickdiv = b.cfg.tickdivRst ∧ b'.regs.clkdiv = b.cfg.clkdivRst ∧
    b'.regs.byteSettle = b.cfg.byteSettleRst ∧ b'.regs.extSettle = b.cfg.extSettleRst ∧
    (b.cfg.rev = .revA → b'.regs.prepoll = 0#16) ∧
    (b.cfg.rev = .revB → b'.regs.prepoll = b.cfg.prepollRstB) ∧
    b'.seq.opv = 0#5 ∧ b'.seq.lvlv = false ∧ b'.seq.argv = 0#16 ∧ b'.seq.mid = false ∧
    b'.xp = ⟨0#8, 0#3, false, false, 0#16⟩ ∧ b'.out = ⟨true, true, false, !b.cfg.hsAssert⟩ ∧
    (∀ v ∈ b'.sync.hs, v = !b.cfg.hsAssert) ∧ (∀ v ∈ b'.sync.data, v = true) ∧
    (∀ v ∈ b'.sync.sck, v = true) ∧ b'.sync.hsPrev = (!b.cfg.hsAssert) ∧ b'.sync.sckPrev = true ∧
    b'.tmr = ⟨0#16, 0#16⟩

/-- Derived from R372 and R373: a host write to CTRL with bit 0 = 1 resets the block in its one step, whatever runs, and
keeps the configuration, the buffer and the synchronisers; the peer block is not told. (That the latched command
fields and locals return to 0 is the model's choice, log 11, and is not claimed.) -/
def Obligations.SoftResetEffect : Prop :=
  ∀ (s : State) (side : Side) (b : Block) (v : Word),
    s.get side = some b → b.rstN = true → v.getLsbD 0 = true →
    ∃ b', (s.apply (.host side (.write 0x008#12 4 v))).get side = some b' ∧
      (s.apply (.host side (.write 0x008#12 4 v))).get side.other = s.get side.other ∧
      b'.busy = false ∧ b'.regs.result = ⟨.none, false, false, 0#16⟩ ∧ b'.regs.events = 0#5 ∧
      b'.regs.data = 0#8 ∧ b'.regs.cksum = ⟨0#8, 0#8, 0#8, 0#8⟩ ∧ b'.regs.advlen = 0#16 ∧
      b'.regs.statusOp = 0#5 ∧ b'.xp = ⟨0#8, 0#3, false, false, 0#16⟩ ∧ b'.tmr = ⟨0#16, 0#16⟩ ∧
      b'.out = ⟨true, true, false, !b.cfg.hsAssert⟩ ∧
      b'.cfg = b.cfg ∧ b'.regs.irqEn = b.regs.irqEn ∧ b'.regs.tickdiv = b.regs.tickdiv ∧
      b'.regs.clkdiv = b.regs.clkdiv ∧ b'.regs.byteSettle = b.regs.byteSettle ∧
      b'.regs.prepoll = b.regs.prepoll ∧ b'.regs.extSettle = b.regs.extSettle ∧
      b'.buf = b.buf ∧ b'.bufEpoch = b.bufEpoch ∧ b'.sync = b.sync

/-- Derived from R370: while rst_n = 0, no host access has an effect, and each is answered 0 with OKAY. -/
def Obligations.AccessDuringReset : Prop :=
  ∀ (b : Block) (side : Side) (a : Access), b.rstN = false →
    b.access a = b ∧ b.reply side a = ⟨side, 0#32, true⟩

/-! ## The host port (10_state.md, 20_memory.md) -/

/-- 10_state.md R44 and R45: ID reads its constant; CFG reads the build parameters field by field, and no event
changes them. -/
def Obligations.IdAndCfgAreConstant : Prop :=
  (∀ b : Block, b.rstN = true → b.hostRead 0x000 4 = 0x53504601#32) ∧
  (∀ b : Block, b.rstN = true → b.cfg.wf = true →
    let w := b.hostRead 0x004 4
    w.getLsbD 0 = decide (b.cfg.role = .responder) ∧ w.getLsbD 1 = decide (b.cfg.rev = .revB) ∧
    w.getLsbD 2 = b.cfg.hsAssert ∧ w.extractLsb' 3 5 = 0#5 ∧
    (w.extractLsb' 8 4).toNat = b.cfg.syncStages ∧ w.extractLsb' 12 4 = 0#4 ∧
    (w.extractLsb' 16 16).toNat = b.cfg.bufSize.bytes) ∧
  (∀ (s : State) (e : Event) (side : Side) (b : Block), s.get side = some b →
    ∃ b', (s.apply e).get side = some b' ∧ b'.cfg = b.cfg)

/-- 20_memory.md R94: which accesses are answered OKAY, and that an ERROR access, read or write, changes nothing and an
ERROR read returns 0. -/
def Obligations.AccessWidthAndAlignment : Prop :=
  ∀ (b : Block) (addr : BitVec 12) (n : Nat) (v : Word), b.rstN = true →
    let off := addr.toNat
    let inBuf := 0x400 ≤ off ∧ off < 0x400 + b.cfg.bufSize.bytes
    (b.hostOk off n = true ↔
      (inBuf ∧ (n = 1 ∨ n = 2 ∨ n = 4) ∧ off % n = 0 ∧
        off + n - 1 < 0x400 + b.cfg.bufSize.bytes) ∨
      (¬ inBuf ∧ n = 4 ∧ off % 4 = 0)) ∧
    (b.hostOk off n = false →
      b.hostRead off n = 0#32 ∧ b.access (.read addr n) = b ∧ b.access (.write addr n v) = b)

/-- 20_memory.md R92: an aligned 4-byte read of a reserved offset returns 0 and a write to it is ignored,
neither being an error; an access of another width or alignment is an error. -/
def Obligations.ReservedOffsets : Prop :=
  ∀ (b : Block) (addr : BitVec 12) (v : Word), b.rstN = true →
    let off := addr.toNat
    ((0x040 ≤ off ∧ off < 0x400) ∨ 0x400 + b.cfg.bufSize.bytes ≤ off) →
    (off % 4 = 0 →
      b.hostRead off 4 = 0#32 ∧ b.access (.write addr 4 v) = b ∧ b.hostOk off 4 = true) ∧
    (∀ n : Nat, ¬ (n = 4 ∧ off % 4 = 0) → b.hostOk off n = false)

/-- 10_state.md R41: while BUSY, a write to DATA, the timing registers or the buffer is dropped with WR_IGNORED and a
write to CMD with CMD_IGNORED; writes to CTRL, EVENTS and IRQ_EN take effect; reads change nothing and, but for
STATUS, return what they return while idle. -/
def Obligations.WritesWhileBusy : Prop :=
  ∀ (b : Block) (v : Word), b.rstN = true → b.busy = true →
    (∀ addr ∈ [0x020#12, 0x02C#12, 0x030#12, 0x034#12, 0x038#12, 0x03C#12],
      b.access (.write addr 4 v) = { b with regs.events := b.regs.events ||| 0x10#5 }) ∧
    (∀ (addr : BitVec 12) (n : Nat), 0x400 ≤ addr.toNat →
      addr.toNat < 0x400 + b.cfg.bufSize.bytes → b.hostOk addr.toNat n = true →
      b.access (.write addr n v) = { b with regs.events := b.regs.events ||| 0x10#5 }) ∧
    b.access (.write 0x00C#12 4 v) = { b with regs.events := b.regs.events ||| 0x04#5 } ∧
    b.access (.write 0x014#12 4 v) =
      { b with regs.events := b.regs.events &&& ~~~(v.extractLsb' 0 5) } ∧
    b.access (.write 0x018#12 4 v) = { b with regs.irqEn := v.extractLsb' 0 5 } ∧
    (v.getLsbD 0 = true → (b.access (.write 0x008#12 4 v)).busy = false) ∧
    (∀ (addr : BitVec 12) (n : Nat), b.access (.read addr n) = b ∧
      (addr ≠ 0x010#12 →
        b.hostRead addr.toNat n = ({ b with seq.prog := .idle } : Block).hostRead addr.toNat n))

/-- Derived from 10_state.md R40, R46, R49, R50 and R52 to R57 and vector X6 of 95_test_vectors.md: while idle, a write
to a RW register is what a later read returns, less the reserved bits, and changes nothing else; a write to EVENTS
clears the bits written as 1 and no other; a write to a read-only register, and one to CTRL with bit 0 = 0, does
nothing; and a read of any offset and width changes nothing (20_memory.md R96). -/
def Obligations.IdleRegisterWrites : Prop :=
  ∀ (b : Block) (v : Word), b.rstN = true → b.busy = false →
    (b.access (.write 0x018#12 4 v) = { b with regs.irqEn := v.extractLsb' 0 5 } ∧
      (b.access (.write 0x018#12 4 v)).hostRead 0x018 4 = v &&& 0x1F#32) ∧
    (b.access (.write 0x020#12 4 v) = { b with regs.data := v.extractLsb' 0 8 } ∧
      (b.access (.write 0x020#12 4 v)).hostRead 0x020 4 = v &&& 0xFF#32) ∧
    (b.access (.write 0x02C#12 4 v) = { b with regs.tickdiv := v.extractLsb' 0 16 } ∧
      (b.access (.write 0x02C#12 4 v)).hostRead 0x02C 4 = v &&& 0xFFFF#32) ∧
    (b.access (.write 0x030#12 4 v) = { b with regs.clkdiv := v.extractLsb' 0 16 } ∧
      (b.access (.write 0x030#12 4 v)).hostRead 0x030 4 = v &&& 0xFFFF#32) ∧
    (b.access (.write 0x034#12 4 v) = { b with regs.byteSettle := v.extractLsb' 0 16 } ∧
      (b.access (.write 0x034#12 4 v)).hostRead 0x034 4 = v &&& 0xFFFF#32) ∧
    (b.access (.write 0x038#12 4 v) = { b with regs.prepoll := v.extractLsb' 0 16 } ∧
      (b.access (.write 0x038#12 4 v)).hostRead 0x038 4 = v &&& 0xFFFF#32) ∧
    (b.access (.write 0x03C#12 4 v) = { b with regs.extSettle := v.extractLsb' 0 16 } ∧
      (b.access (.write 0x03C#12 4 v)).hostRead 0x03C 4 = v &&& 0xFFFF#32) ∧
    (b.access (.write 0x014#12 4 v) =
        { b with regs.events := (b.access (.write 0x014#12 4 v)).regs.events } ∧
      ∀ k, k < 5 → (b.access (.write 0x014#12 4 v)).regs.events.getLsbD k =
        (b.regs.events.getLsbD k && !v.getLsbD k)) ∧
    (∀ addr ∈ [0x000#12, 0x004#12, 0x010#12, 0x01C#12, 0x024#12, 0x028#12],
      b.access (.write addr 4 v) = b ∧ b.hostOk addr.toNat 4 = true) ∧
    (v.getLsbD 0 = false → b.access (.write 0x008#12 4 v) = b) ∧
    (∀ (addr : BitVec 12) (n : Nat), b.access (.read addr n) = b)

/-- 20_memory.md R97 (and R95 for the buffer): byte k of a 1-, 2- or 4-byte access moves to or from offset a + k, the
other bytes of the buffer stay, and the word at 0x400 + 4k is its four bytes, buf[4k] lowest. -/
def Obligations.BufferByteOrder : Prop :=
  (∀ (b : Block) (addr : BitVec 12) (n : Nat) (v : Word), b.rstN = true → b.busy = false →
    0x400 ≤ addr.toNat → addr.toNat < 0x400 + b.cfg.bufSize.bytes → b.hostOk addr.toNat n = true →
    let b' := b.access (.write addr n v)
    (∀ k, k < n → b'.buf.readByte b'.bufEpoch (addr.toNat + k) = v.extractLsb' (8 * k) 8) ∧
    b.sameBytesExcept b' (fun off => addr.toNat ≤ off ∧ off < addr.toNat + n) ∧
    (∀ k, k < n → (b.hostRead addr.toNat n).extractLsb' (8 * k) 8 =
      b.buf.readByte b.bufEpoch (addr.toNat + k)) ∧
    (b.hostRead addr.toNat n).toNat < 2 ^ (8 * n)) ∧
  (∀ (b : Block) (k : Nat), b.rstN = true → 4 * k + 3 < b.cfg.bufSize.bytes →
    b.hostRead (0x400 + 4 * k) 4 =
      b.readBuf (4 * k + 3) ++ b.readBuf (4 * k + 2) ++ b.readBuf (4 * k + 1) ++ b.readBuf (4 * k))

/-- Derived from 10_state.md R49: after a step of the clock in which the host also writes EVENTS, with whatever bit is
drawn in it, an EVENTS bit is set exactly if the step sets it from a clear EVENTS, whatever the host writes, or if it
was set and not written as 1; in all else the step is the one without that write. -/
def Obligations.HardwareSetWinsOverClear : Prop :=
  ∀ (b : Block) (p : Pins) (v : Word) (slip : Option Level), b.rstN = true →
    let b' := b.clkStepClear p v slip
    (∀ e : EventBit, b'.event e =
      (({ b with regs.events := 0#5 }.clkStep p slip).event e || (b.event e && !v.getLsbD e.index))) ∧
    b' = { b.clkStep p slip with regs.events := b'.regs.events }

/-- Derived from 60_exceptions.md R340: irq is the OR over k in 0..4 of EVENTS[k] AND IRQ_EN[k]. -/
def Obligations.IrqLevel : Prop :=
  ∀ b : Block, b.irq = true ↔
    ∃ k, k < 5 ∧ b.regs.events.getLsbD k = true ∧ b.regs.irqEn.getLsbD k = true

/-- Derived from 10_state.md R48, 41_handshake.md R226, vectors Z5 and Z6 of 95_test_vectors.md: STATUS field by field.
WSTATE is 1 or 2 at an await of ASSERTED or DEASSERTED, 3 at each line of XferI and AwaitByte and where their byte is
taken, 4 in a delay, 5 in a WAIT_* await, 6 in CKSUM_COMPUTE, 0 while idle; that it is 0 at every other line, and in
CKSUM_COMPUTE before the line that sets 6, is the model's choice, log 13. -/
def Obligations.StatusFields : Prop :=
  ∀ b : Block, b.rstN = true →
    let w := b.hostRead 0x010 4
    w.getLsbD 0 = b.busy ∧ w.getLsbD 1 = b.out.dataOe ∧ w.getLsbD 2 = b.out.hsO ∧
    w.getLsbD 3 = b.hsSample ∧
    (b.cfg.role = .initiator →
      w.getLsbD 4 = b.out.sckO ∧ w.getLsbD 6 = false ∧ w.getLsbD 7 = false) ∧
    (b.cfg.role = .responder →
      w.getLsbD 4 = b.sckSample ∧ w.getLsbD 6 = b.xp.armed ∧ w.getLsbD 7 = b.xp.byteDone) ∧
    w.getLsbD 5 = b.dataSample ∧ w.extractLsb' 8 3 = b.xp.bitcnt ∧ w.getLsbD 11 = false ∧
    w.extractLsb' 12 4 = b.wstate ∧ w.extractLsb' 16 5 = b.regs.statusOp ∧
    w.extractLsb' 21 11 = 0#11 ∧ b.wstate.toNat ≤ 6 ∧ (b.busy = false → b.wstate = 0#4) ∧
    (∀ (l : Line) (rest : List Line), b.seq.prog = .run (l :: rest) → b.seq.opv ≠ 0x0C#5 →
      let transfer := (∃ v, l = .loadSh v) ∨ (∃ used, l = .takeDone used) ∨
        l ∈ [Line.sckLow, .putBit, .sckHigh, .takeBit .wr, .takeBit .rd, .shiftBit, .countBit, .hold,
          .awaitByte, .takeSh]
      (l = .awaitHs true → b.wstate = 1#4) ∧ (l = .awaitHs false → b.wstate = 2#4) ∧
      (transfer → b.wstate = 3#4) ∧ ((∃ d, l = .delay d) → b.wstate = 4#4) ∧
      ((∃ k, l = .waitFinish k) → b.wstate = 5#4) ∧
      (¬ transfer → (∀ a, l ≠ .awaitHs a) → (∀ d, l ≠ .delay d) → (∀ k, l ≠ .waitFinish k) →
        b.wstate = 0#4)) ∧
    (∀ ls : List Line, b.seq.prog = .run ls → ls ≠ [] → b.seq.opv = 0x0C#5 →
      b.wstate = (if Line.showCompute ∈ ls then 0#4 else 6#4))

/-! ## Submission (30_encoding.md R124, R125; 60_exceptions.md R321) -/

/-- R125: the result of a CMD write while idle is that of the first failing test, in the order ERR_OP, ERR_ROLE,
ERR_ARG, ERR_DIR; if none fails the operation runs and the code is NONE. -/
def Obligations.CheckReportsFirstFailure : Prop :=
  ∀ (b : Block) (w : Word), b.rstN = true → b.busy = false →
    let b' := b.access (.write 0x00C#12 4 w)
    (∀ r, decode w = .reject r → b'.regs.result.code = .errOp ∧ b'.busy = false) ∧
    (∀ i, decode w = .instr i →
      (i.roleOk b.cfg.role = false → b'.regs.result.code = .errRole ∧ b'.busy = false) ∧
      (i.roleOk b.cfg.role = true → i.argOk b.cfg = false →
        b'.regs.result.code = .errArg ∧ b'.busy = false) ∧
      (i.wf b.cfg = true → i.opcode = 0x02#5 → b.out.dataOe = true →
        b'.regs.result.code = .errDir ∧ b'.busy = false) ∧
      (i.wf b.cfg = true → ¬ (i.opcode = 0x02#5 ∧ b.out.dataOe = true) →
        b'.regs.result.code = .none ∧ b'.busy = true))

/-- 60_exceptions.md R321, and the busy branch of R124: a command that comes while BUSY is dropped with CMD_IGNORED;
one that fails the check sets RESULT, STATUS.OP, DONE and ERR and nothing else; and a word that decodes to nothing
is refused in the same way with ERR_OP. -/
def Obligations.DroppedAndRefusedCommands : Prop :=
  (∀ (i : Instr) (s : State) (b : Block), s.get s.port = some b → b.rstN = true → b.busy = true →
    (s.contending = true → s.contention = true) →
    exec i s = .next (s.set s.port { b with regs.events := b.regs.events ||| 0x04#5 })) ∧
  (∀ (i : Instr) (s : State) (b : Block), s.idleAt b → b.check i ≠ .ok →
    (s.contending = true → s.contention = true) →
    exec i s = .next (s.set s.port { b with
      regs.result := ⟨b.check i, false, false, 0#16⟩
      regs.statusOp := i.opcode
      regs.events := b.regs.events ||| 0x03#5 })) ∧
  (∀ (b : Block) (w : Word) (r : Reject), b.rstN = true → b.busy = false → decode w = .reject r →
    b.access (.write 0x00C#12 4 w) = { b with
      regs.result := ⟨.errOp, false, false, 0#16⟩
      regs.statusOp := w.extractLsb' 0 5
      regs.events := b.regs.events ||| 0x03#5 })

/-- Derived from R124 (the accepted branch) and 41_handshake.md R214: with no clock yet scheduled, an accepted
operation leaves the block BUSY at the first line of its pseudocode that takes time, with the command latched, RESULT
= 0, DONE = ERR = 0, the other events kept, and nothing else changed. That the locals keep what they hold is the
model's choice, log 12 (R62 and R124 leave them open). -/
def Obligations.AcceptedCommandIsLatched : Prop :=
  ∀ (i : Instr) (s : State) (b : Block), s.readyFor i b → s.env = [] →
    ∃ t b', exec i s = .next t ∧ t.get s.port = some b' ∧ t.get s.port.other = s.get s.port.other ∧
      b'.busy = true ∧ b'.seq.prog = .run (b'.dropZero (programOf b.cfg i)) ∧ b'.seq.opv = i.opcode ∧ b'.seq.lvlv = i.lvl ∧ b'.seq.argv = i.arg ∧ b'.seq.mid = false ∧
      b'.seq.locs = b.seq.locs ∧
      b'.regs = { b.regs with
        result := ⟨.none, false, false, 0#16⟩
        events := b.regs.events &&& 0x1C#5
        statusOp := i.opcode } ∧
      b'.cfg = b.cfg ∧ b'.buf = b.buf ∧ b'.bufEpoch = b.bufEpoch ∧ b'.xp = b.xp ∧ b'.out = b.out ∧
      b'.sync = b.sync ∧ b'.tmr = b.tmr

/-- 60_exceptions.md R331: finish(code) sets RESULT.CODE and DONE, sets ERR for a code of 2 or more and only then,
leaves the block idle with WSTATE 0, and changes nothing else; pseudocode that ends without a finish ends with
finish(OK). -/
def Obligations.FinishEffect : Prop :=
  (∀ (b : Block) (c : ResultCode),
    b.finish c = { b with
      regs.result.code := c
      regs.events :=
        (if 2 ≤ c.bits.toNat then b.regs.events ||| 0x03#5 else b.regs.events ||| 0x01#5)
      seq.prog := .idle } ∧
    (b.finish c).busy = false ∧ (b.finish c).wstate = 0#4) ∧
  (∀ b : Block, b.seq.prog = .run [] → b.seqStep = { b.finish .ok with seq.mid := false })

/-! ## Handshake and timing operations (41_handshake.md) -/

/-- Derived from R236 (one cycle: log 7): NOP completes with OK in the first clk cycle after it is accepted, and
drives nothing. -/
def Obligations.NopCompletes : Prop :=
  ∀ (arg : Half) (lvl : Bool) (s : State) (b : Block) (p : Pins) (es : List Event),
    s.readyFor (.nop arg lvl) b → s.env = clks s.port [p] ++ es →
    ∃ t b', exec (.nop arg lvl) s = .next t ∧ t.env = es ∧ t.get s.port = some b' ∧
      b'.finishedWith ⟨.ok, false, false, 0#16⟩ 0x00#5 ∧ b.out.sameDrive b'.out

/-- Derived from R234 (one cycle: log 7): HS_DRIVE drives hs_o to LVL and completes with OK, whatever ARG is. -/
def Obligations.HsDriveCompletes : Prop :=
  ∀ (arg : Half) (lvl : Bool) (s : State) (b : Block) (p : Pins) (es : List Event),
    s.readyFor (.hsDrive arg lvl) b → s.env = clks s.port [p] ++ es →
    ∃ t b', exec (.hsDrive arg lvl) s = .next t ∧ t.env = es ∧ t.get s.port = some b' ∧
      b'.finishedWith ⟨.ok, false, false, 0#16⟩ 0x07#5 ∧ b'.out.hsO = lvl ∧
      b'.out.sckO = b.out.sckO ∧ b'.out.dataOe = b.out.dataOe

/-- Derived from R214 and R235 (the one cycle of finish is the model's, log 7): DELAY t holds for t·(DIV+1) clk cycles
with WSTATE = 4 and no change of hs_o, sck_o or data_oe, and completes with OK in the cycle after. -/
def Obligations.DelayHoldsThenCompletes : Prop :=
  ∀ (arg : Half) (lvl : Bool) (s : State) (b : Block) (ps : List Pins) (es : List Event),
    s.readyFor (.delay arg lvl) b → b.Inv → s.env = clks s.port ps ++ es →
    (ps.length = b.delayCycles arg + 1 →
      ∃ t b', exec (.delay arg lvl) s = .next t ∧ t.env = es ∧ t.get s.port = some b' ∧
        b'.finishedWith ⟨.ok, false, false, 0#16⟩ 0x0A#5 ∧ b.out.sameDrive b'.out) ∧
    (ps.length < b.delayCycles arg → es = [] →
      ∃ t b', exec (.delay arg lvl) s = .next t ∧ t.get s.port = some b' ∧
        b'.busy = true ∧ b'.wstate = 4#4 ∧ b.out.sameDrive b'.out)

/-- Derived from R212, R213 and R230 to R233, for WAIT_RISE, WAIT_FALL, WAIT_HIGH and WAIT_LOW on a block alone: after the pre-poll delay of d
cycles, the wait completes with OK in the first cycle, the start cycle counted, whose synchronised level (and the
level of the cycle before, for an edge) is what it waits for; nothing of the schedule after that cycle is taken. -/
def Obligations.WaitCompletesInFirstMatchingCycle : Prop :=
  ∀ (k : Wait) (arg : Half) (lvl : Bool) (s : State) (b : Block) (ps : List Pins) (es : List Event)
    (m : Nat),
    s.aloneFor (k.instr arg lvl) b → b.Inv → s.env = clks .near ps ++ es →
    b.delayCycles b.regs.prepoll ≤ m → m < ps.length →
    k.seen ((b.hsStream ps).getD m false) ((b.hsStream ps).getD (m + 1) false) →
    (∀ j, b.delayCycles b.regs.prepoll ≤ j → j < m →
      ¬ k.seen ((b.hsStream ps).getD j false) ((b.hsStream ps).getD (j + 1) false)) →
    ∃ t, exec (k.instr arg lvl) s = .next t ∧ t.env = clks .near (ps.drop (m + 1)) ++ es ∧
      t.near.finishedWith ⟨.ok, false, false, 0#16⟩ (k.instr arg lvl).opcode ∧
      b.out.sameDrive t.near.out

/-- Derived from 00_scope.md R13, 41_handshake.md R220 to R222 and R225 and 60_exceptions.md R353: an await whose line
never makes the awaited change never completes. A WAIT_* operation is BUSY with WSTATE = 5, RESULT.CODE = NONE and
DONE = 0 after any number of cycles. So is, with WSTATE = 1 from its await on, a framer operation of a block alone
whose peer's handshake line stands DEASSERTED: it moves no CLK. And in any operation a clk cycle ends the await of a
handshake level exactly if the synchronised line is at that level. (That at most three lines, a cycle each, come
before the first pre-poll delay is the model's, log 7.) -/
def Obligations.WaitHangsWithoutItsChange : Prop :=
  (∀ (k : Wait) (arg : Half) (lvl : Bool) (s : State) (b : Block) (ps : List Pins),
    s.aloneFor (k.instr arg lvl) b → b.Inv → s.env = clks .near ps →
    b.delayCycles b.regs.prepoll ≤ ps.length →
    (∀ j, b.delayCycles b.regs.prepoll ≤ j → j < ps.length →
      ¬ k.seen ((b.hsStream ps).getD j false) ((b.hsStream ps).getD (j + 1) false)) →
    ∃ t, exec (k.instr arg lvl) s = .next t ∧ t.near.busy = true ∧ t.near.wstate = 5#4 ∧
      t.near.regs.result.code = .none ∧ t.near.event .done = false ∧ b.out.sameDrive t.near.out) ∧
  (∀ (arg : Half) (lvl : Bool) (i : Instr) (s : State) (b : Block) (ps : List Pins),
    i ∈ [Instr.sendCmd arg lvl, .readResp arg lvl, .extPacket arg lvl, .rspReadCksum arg lvl,
      .rspWriteCksum arg lvl] →
    s.aloneFor i b → b.Inv → b.hsQuiet → s.env = clks .near ps →
    (∀ p ∈ ps, p.hs = !b.cfg.hsAssert) →
    ∃ t, exec i s = .next t ∧ t.near.busy = true ∧ t.near.regs.result.code = .none ∧
      t.near.event .done = false ∧ t.near.out.sckO = b.out.sckO ∧
      (3 + b.delayCycles b.regs.prepoll ≤ ps.length → t.near.wstate = 1#4)) ∧
  (∀ (b : Block) (p : Pins) (slip : Option Level) (asserted : Bool) (rest : List Line),
    b.rstN = true → b.seq.mid = false → b.seq.prog = .run (.awaitHs asserted :: rest) →
    let b' := b.clkStep p slip
    let now := lastStage b'.sync.hs
    (now = (if asserted then b.cfg.hsAssert else !b.cfg.hsAssert) →
      b'.seq = { b.seq with prog := .run (b.dropZero rest) }) ∧
    (now ≠ (if asserted then b.cfg.hsAssert else !b.cfg.hsAssert) → b'.seq = b.seq))

/-! ## Transport operations (40_transport.md) -/

/-- Derived from R182 and R183 (one cycle: log 7, log 9): DATA_ACQUIRE takes and DATA_RELEASE gives up DATA and completes with OK; an initiator's
data_o keeps its value. -/
def Obligations.DataOwnershipCompletes : Prop :=
  ∀ (arg : Half) (lvl : Bool) (s : State) (b : Block) (p : Pins) (es : List Event),
    s.env = clks s.port [p] ++ es →
    (s.readyFor (.dataAcquire arg lvl) b →
      ∃ t b', exec (.dataAcquire arg lvl) s = .next t ∧ t.env = es ∧ t.get s.port = some b' ∧
        b'.finishedWith ⟨.ok, false, false, 0#16⟩ 0x08#5 ∧ b'.out.dataOe = true ∧
        b'.out.hsO = b.out.hsO ∧ b'.out.sckO = b.out.sckO ∧
        (b.cfg.role = .initiator → b'.out.dataO = b.out.dataO)) ∧
    (s.readyFor (.dataRelease arg lvl) b →
      ∃ t b', exec (.dataRelease arg lvl) s = .next t ∧ t.env = es ∧ t.get s.port = some b' ∧
        b'.finishedWith ⟨.ok, false, false, 0#16⟩ 0x09#5 ∧ b'.out.dataOe = false ∧
        b'.out.hsO = b.out.hsO ∧ b'.out.sckO = b.out.sckO ∧
        (b.cfg.role = .initiator → b'.out.dataO = b.out.dataO))

/-- Derived from R184 (four cycles in either role: log 7, log 9): XPORT_RESET clears SH, BITCNT, BYTE_DONE and ARMED, releases DATA with data_o = 1 and leaves an
initiator's clock high; hs_o, STRAY_CLK and the buffer stay. On a responder: while no clock edge arrives. -/
def Obligations.XportResetCompletes : Prop :=
  ∀ (arg : Half) (lvl : Bool) (s : State) (b : Block) (ps : List Pins) (es : List Event),
    s.readyFor (.xportReset arg lvl) b → b.Inv → s.env = clks s.port ps ++ es → ps.length = 4 →
    (b.cfg.role = .initiator ∨
      (s.far = none ∧ b.clockQuiet ∧ ∀ p ∈ ps, p.sck = true)) →
    ∃ t b', exec (.xportReset arg lvl) s = .next t ∧ t.env = es ∧ t.get s.port = some b' ∧
      b'.finishedWith ⟨.ok, false, false, 0#16⟩ 0x0B#5 ∧
      b'.xp = ⟨0#8, 0#3, false, false, 0#16⟩ ∧
      b'.out = ⟨true, true, false, b.out.hsO⟩ ∧
      b'.event .strayClk = b.event .strayClk ∧ b'.buf = b.buf ∧ b'.bufEpoch = b.bufEpoch

/-- Derived from R172, R180, 10_state.md R54 and 60_exceptions.md R347, with the counts of log 7 and log 8: an initiator's
WRITE_BYTE completes with OK and COUNT = 1, DATA driven at bit 7 of the byte, CLK high and BITCNT where it was. It
takes eight bit periods, the settle delay and five lines, each step a clk cycle; from CLKDIV.DIV = 4 on a half of a
bit period is DIV + 1 cycles. -/
def Obligations.InitiatorWriteByteCompletes : Prop :=
  ∀ (arg : Half) (lvl : Bool) (s : State) (b : Block) (ps : List Pins) (es : List Event),
    s.readyFor (.writeByte arg lvl) b → b.Inv → b.cfg.role = .initiator →
    s.env = clks s.port ps ++ es →
    ps.length = 5 + 8 * b.bitCycles .wr + b.delayCycles b.regs.byteSettle →
    (4 ≤ b.regs.clkdiv.toNat →
      ps.length = 5 + 16 * (b.regs.clkdiv.toNat + 1) + b.delayCycles b.regs.byteSettle) ∧
      ∃ t b', exec (.writeByte arg lvl) s = .next t ∧ t.env = es ∧ t.get s.port = some b' ∧
        b'.finishedWith ⟨.ok, false, false, 1#16⟩ 0x01#5 ∧
        b'.out = ⟨true, b.regs.data.getLsbD 7, true, b.out.hsO⟩ ∧
        b'.xp.bitcnt = b.xp.bitcnt ∧ b'.regs.data = b.regs.data

/-- Derived from 20_memory.md R99, R170 to R172, 10_state.md R54 and 60_exceptions.md R347 (counts of log 7 and log 8): in
bit period k of an initiator's WRITE_BYTE, CLK is low for the clk cycles of the first half and high for those of the
second, each half CLKDIV.DIV + 1 cycles from DIV = 4 on, and from the cycle after the falling edge to the end of the
period DATA carries bit k of the byte. -/
def Obligations.InitiatorWriteByteWaveform : Prop :=
  ∀ (arg : Half) (lvl : Bool) (s : State) (b : Block) (ps : List Pins) (k : Nat),
    s.readyFor (.writeByte arg lvl) b → b.Inv → b.cfg.role = .initiator → s.env = clks s.port ps →
    k < 8 →
    let start := 3 + k * b.bitCycles .wr
    start < ps.length → ps.length ≤ start + b.bitCycles .wr →
    (4 ≤ b.regs.clkdiv.toNat → b.lowHalf .wr = b.regs.clkdiv.toNat + 1 ∧
      b.bitCycles .wr = 2 * (b.regs.clkdiv.toNat + 1)) ∧
    ∃ t b', exec (.writeByte arg lvl) s = .next t ∧ t.get s.port = some b' ∧ b'.busy = true ∧
      b'.out.dataOe = true ∧ b'.out.hsO = b.out.hsO ∧
      b'.out.sckO = decide (start + b.lowHalf .wr < ps.length) ∧
      (start + 1 < ps.length → b'.out.dataO = b.regs.data.getLsbD k)

/-- Derived from R172, R173, R181, 10_state.md R54 and 60_exceptions.md R347 (counts of log 7 and log 8): an initiator's
READ_BYTE completes with OK and COUNT = 1, and bit k of DATA.BYTE is the synchronised level of data_i in the clk cycle
after the rising edge of period k. It takes eight bit periods, the settle delay and four lines, each step a clk cycle;
from CLKDIV.DIV = 4 on a half of a bit period is DIV + 1 cycles. -/
def Obligations.InitiatorReadByteCompletes : Prop :=
  ∀ (arg : Half) (lvl : Bool) (s : State) (b : Block) (ps : List Pins) (es : List Event),
    s.aloneFor (.readByte arg lvl) b → b.Inv → b.cfg.role = .initiator →
    s.env = clks .near ps ++ es →
    ps.length = 4 + 8 * b.bitCycles .rd + b.delayCycles b.regs.byteSettle →
    (4 ≤ b.regs.clkdiv.toNat →
      ps.length = 4 + 16 * (b.regs.clkdiv.toNat + 1) + b.delayCycles b.regs.byteSettle) ∧
      ∃ t, exec (.readByte arg lvl) s = .next t ∧ t.env = es ∧
        t.near.finishedWith ⟨.ok, false, false, 1#16⟩ 0x02#5 ∧
        t.near.out = ⟨true, b.out.dataO, false, b.out.hsO⟩ ∧ t.near.xp.bitcnt = b.xp.bitcnt ∧
        ∀ k, k < 8 →
          t.near.regs.data.getLsbD k =
            (b.dataStream ps).getD (k * b.bitCycles .rd + b.lowHalf .rd + 2) false

/-- Derived from R174 to R176, R180, R181 and 20_memory.md R99: a responder alone, its clock quiet and BITCNT = 0,
completes READ_BYTE with any byte, the wire having brought that byte, LSB first, and WRITE_BYTE, having put DATA.BYTE on
the wire, LSB first, with DATA left driven at bit 7, under some schedule of its clock and pins. -/
def Obligations.ResponderByteOperationsComplete : Prop :=
  ∀ (arg : Half) (lvl : Bool) (s : State) (b : Block),
    b.Inv → b.cfg.role = .responder → b.clockQuiet → b.xp.bitcnt = 0#3 →
    (s.aloneFor (.readByte arg lvl) b → ∀ v : Byte, ∃ ps t,
      exec (.readByte arg lvl) { s with env := clks .near ps } = .next t ∧
      t.near.finishedWith ⟨.ok, false, false, 1#16⟩ 0x02#5 ∧ t.near.regs.data = v ∧
      t.near.xp.bitcnt = 0#3 ∧ t.near.out.dataOe = false ∧
      (b.submit (.readByte arg lvl) (readByteProg b.cfg.role)).wire ps = wireBytes false [v]) ∧
    (s.aloneFor (.writeByte arg lvl) b → ∃ ps t,
      exec (.writeByte arg lvl) { s with env := clks .near ps } = .next t ∧
      t.near.finishedWith ⟨.ok, false, false, 1#16⟩ 0x01#5 ∧ t.near.regs.data = b.regs.data ∧
      t.near.out.dataOe = true ∧ t.near.out.dataO = b.regs.data.getLsbD 7 ∧
      (b.submit (.writeByte arg lvl) (writeByteProg b.cfg.role)).wire ps = wireBytes true [b.regs.data])

/-- Derived from R174 and 20_memory.md R99: eight rising edges of the responder's engine from BITCNT = 0 leave in SH the
byte whose bit k was sampled at edge k, set BYTE_DONE, disarm, and bring BITCNT back to 0. -/
def Obligations.ResponderShiftsLsbFirst : Prop :=
  ∀ (b : Block) (v : Byte), b.xp.bitcnt = 0#3 →
    let edge := fun (x : Block) (k : Nat) =>
      ({ x with sync.bit := v.getLsbD k } : Block).engineRise
    let b' := (List.range 8).foldl edge b
    b'.xp = ⟨v, 0#3, true, false, b.xp.hph⟩ ∧
      b'.event .strayClk = (b.event .strayClk || !b.xp.armed)

/-- Derived from R174 to R176, 10_state.md R49 and 60_exceptions.md R347: in a clk cycle of a responder that is idle or
waits for its armed byte, a falling edge puts SH[0] on data_o if the block owns DATA; a rising edge shifts the
sampled bit in at bit 7, counts it, and sets STRAY_CLK exactly if the block is not armed; the eighth bit sets
BYTE_DONE and disarms, and AwaitByte completes in that same cycle: its remaining steps, with no synchroniser or
engine step between them, put BYTE_DONE back at 0 and return SH where its value is used; with no edge none of this
happens. -/
def Obligations.ResponderFollowsTheClock : Prop :=
  ∀ (b : Block) (p : Pins) (slip : Option Level), b.cfg.role = .responder → b.rstN = true →
    b.seq.mid = false →
    (b.busy = false ∨ (b.xp.byteDone = false ∧
      ∃ ls, b.seq.prog = .run (awaitByteLines ++ ls) ∨ b.seq.prog = .run (awaitDoneLines ++ ls))) →
    let b' := b.clkStep p slip
    let now := lastStage b'.sync.sck
    b'.sync.sckPrev = now ∧ b'.buf = b.buf ∧
    b'.sync.bit = slip.getD (lastStage b'.sync.data) ∧
    (b.sync.sckPrev = true → now = false →
      b'.xp = b.xp ∧ b'.regs = b.regs ∧ b'.seq = b.seq ∧
      b'.out = (if b.out.dataOe then { b.out with dataO := b.xp.sh.getLsbD 0 } else b.out)) ∧
    (b.sync.sckPrev = false → now = true →
      b'.out = b.out ∧ b'.xp.sh.getLsbD 7 = b'.sync.bit ∧
      (∀ k, k < 7 → b'.xp.sh.getLsbD k = b.xp.sh.getLsbD (k + 1)) ∧
      b'.regs = (if b.xp.armed then b.regs else { b.regs with events := b.regs.events ||| 0x08#5 }) ∧
      (b.xp.bitcnt ≠ 7#3 → b'.xp.bitcnt = b.xp.bitcnt + 1#3 ∧ b'.xp.byteDone = b.xp.byteDone ∧
        b'.xp.armed = b.xp.armed ∧ b'.seq = b.seq) ∧
      (b.xp.bitcnt = 7#3 → b'.xp.bitcnt = 0#3 ∧ b'.xp.armed = false ∧ b'.xp.byteDone = true ∧
        (b.busy = false → b'.seq = b.seq) ∧
        (∀ rest, b.seq.prog = .run (awaitByteLines ++ rest) → ∀ p1 p2 : Pins,
          (b'.clkStep p1).clkStep p2 = { b' with
            xp.byteDone := false
            seq.prog := .run (b.dropZero rest)
            seq.locs.b := b'.xp.sh
            seq.mid := false }) ∧
        (∀ rest, b.seq.prog = .run (awaitDoneLines ++ rest) → ∀ p1 : Pins,
          b'.clkStep p1 = { b' with
            xp.byteDone := false
            seq.prog := .run (b.dropZero rest)
            seq.mid := false }))) ∧
    (b.sync.sckPrev = now → b'.xp = b.xp ∧ b'.regs = b.regs ∧ b'.out = b.out ∧ b'.seq = b.seq)

/-! ## Checksum (43_checksum.md) -/

/-- R302: replacing one byte by a different value changes the checksum, by their difference mod 256. -/
def Obligations.SingleByteMutationChangesChecksum : Prop :=
  ∀ (bytes : List Byte) (k : Nat) (v : Byte) (h : k < bytes.length),
    cksum (bytes.set k v) = cksum bytes + (v - bytes[k]) ∧
      (v ≠ bytes[k] → cksum (bytes.set k v) ≠ cksum bytes)

/-- Derived from R300 and R305: CKSUM_COMPUTE n takes n + 7 clk cycles (one line a cycle, log 7), sets CALC to the
checksum of buf[0..n-1], MATCH to its comparison with DATA.BYTE, COUNT to n and the code to OK or CKSUM_MISMATCH,
and writes nothing else. -/
def Obligations.CksumComputeCompletes : Prop :=
  ∀ (arg : Half) (lvl : Bool) (s : State) (b : Block) (ps : List Pins) (es : List Event),
    s.readyFor (.cksumCompute arg lvl) b → s.env = clks s.port ps ++ es →
    ps.length = arg.toNat + 7 →
    let sum := cksum (b.bufBytes 0 arg.toNat)
    ∃ t b', exec (.cksumCompute arg lvl) s = .next t ∧ t.env = es ∧ t.get s.port = some b' ∧
      b'.finishedWith
        ⟨if sum = b.regs.data then .ok else .cksumMismatch, decide (sum = b.regs.data), false, arg⟩
        0x0C#5 ∧
      b'.regs.cksum = { b.regs.cksum with calcA := sum } ∧ b'.regs.data = b.regs.data ∧
      b'.regs.advlen = b.regs.advlen ∧ b'.buf = b.buf ∧ b'.bufEpoch = b.bufEpoch ∧
      b.out.sameDrive b'.out

/-! ## Framer operations (42_framer.md): what they leave when they end -/

/-- Derived from R250: whatever the peer does, a SEND_CMD that ends has CALC = the sum of buf[0..3], MATCH = (RXACK =
CALC), COUNT = 4, the code OK or CKSUM_MISMATCH accordingly, DATA released and its lines at rest; the buffer
stays. On a block alone, the wire carried buf[0..3] from it, then that ack to it, LSB first (20_memory.md R99). -/
def Obligations.SendCmdResult : Prop :=
  ∀ (arg : Half) (lvl : Bool) (s t : State) (b b' : Block),
    s.readyFor (.sendCmd arg lvl) b → b.Inv → (∀ e ∈ s.env, e.isClk = true) →
    exec (.sendCmd arg lvl) s = .next t → t.get s.port = some b' → b'.busy = false →
    let sum := cksum (b.bufBytes 0 4)
    let ack := b'.regs.cksum.rxackA
    b'.finishedWith ⟨if ack = sum then .ok else .cksumMismatch, decide (ack = sum), false, 4#16⟩
        0x10#5 ∧
      b'.regs.cksum = { b.regs.cksum with calcA := sum, rxackA := ack } ∧
      b'.out.dataOe = false ∧ b'.out.hsO = (!b.cfg.hsAssert) ∧ b'.out.sckO = true ∧
      b'.buf = b.buf ∧ b'.bufEpoch = b.bufEpoch ∧
      ∀ ps, s.far = none → s.port = .near → s.env = clks .near ps →
        (b.submit (.sendCmd arg lvl) sendCmdProg).wire ps =
          wireBytes true (b.bufBytes 0 4) ++ wireBytes false [ack]

/-- Derived from R260: a READ_RESP that ends has either advertised more than the cap, with OVERRUN, COUNT = 0 and no
buffer byte or CKSUM field written, or at most the cap, with OK, COUNT = L, CALC = the sum of buf[0..L-1], MATCH =
(RXACK = CALC) whatever MATCH is, and no byte outside buf[0..L-1] written. On a block alone, the wire brought the
prefix of L (low byte first in REV_A, 20_memory.md R100), then buf[0..L-1] and RXACK unless it overran. -/
def Obligations.ReadRespResult : Prop :=
  ∀ (arg : Half) (lvl : Bool) (s t : State) (b b' : Block),
    s.readyFor (.readResp arg lvl) b → b.Inv → (∀ e ∈ s.env, e.isClk = true) →
    exec (.readResp arg lvl) s = .next t → t.get s.port = some b' → b'.busy = false →
    let cap := min arg.toNat b.cfg.bufSize.bytes
    let len := b'.regs.advlen
    let sum := cksum (b'.bufBytes 0 len.toNat)
    let trail := b'.regs.cksum.rxackA
    b'.out.dataOe = false ∧ b'.out.hsO = (!b.cfg.hsAssert) ∧ b'.out.sckO = true ∧
    (b.cfg.rev = .revB → len.toNat < 256) ∧
    ((cap < len.toNat ∧ b'.finishedWith ⟨.overrun, false, false, 0#16⟩ 0x11#5 ∧
        b'.regs.cksum = b.regs.cksum ∧ b'.buf = b.buf ∧ b'.bufEpoch = b.bufEpoch ∧
        ∀ ps, s.far = none → s.port = .near → s.env = clks .near ps →
          (b.submit (.readResp arg lvl) (readRespProg b.cfg.rev)).wire ps =
            wireBytes false (lenPrefix b.cfg.rev len)) ∨
      (len.toNat ≤ cap ∧ b'.finishedWith ⟨.ok, decide (trail = sum), false, len⟩ 0x11#5 ∧
        b'.regs.cksum = { b.regs.cksum with calcA := sum, rxackA := trail } ∧
        b.sameBytesExcept b' (fun off => bufOffset 0 ≤ off ∧ off < bufOffset len.toNat) ∧
        ∀ ps, s.far = none → s.port = .near → s.env = clks .near ps →
          (b.submit (.readResp arg lvl) (readRespProg b.cfg.rev)).wire ps =
            wireBytes false (lenPrefix b.cfg.rev len ++ b'.bufBytes 0 len.toNat ++ [trail])))

/-- Derived from R270: an EXT_PACKET that ends has OK, COUNT = 17, the stage sums in CALC and CALC_B, the acks it
received in buf[4] and buf[16] and in RXACK and RXACK_B, MATCH and MATCH_B by comparison; only buf[4] and buf[16]
are written. On a block alone, the wire carried buf[0..3] from it, the first ack to it, buf[5..15] from it and the
second ack to it. -/
def Obligations.ExtPacketResult : Prop :=
  ∀ (arg : Half) (lvl : Bool) (s t : State) (b b' : Block),
    s.readyFor (.extPacket arg lvl) b → b.Inv → (∀ e ∈ s.env, e.isClk = true) →
    exec (.extPacket arg lvl) s = .next t → t.get s.port = some b' → b'.busy = false →
    let sumA := cksum (b.bufBytes 0 4)
    let sumB := cksum (b.bufBytes 5 11)
    b'.finishedWith
        ⟨.ok, decide (b'.readBuf 4 = sumA), decide (b'.readBuf 16 = sumB), 17#16⟩ 0x12#5 ∧
      b'.regs.cksum = ⟨sumA, b'.readBuf 4, sumB, b'.readBuf 16⟩ ∧
      b'.out.dataOe = false ∧ b'.out.hsO = (!b.cfg.hsAssert) ∧ b'.out.sckO = true ∧
      b.sameBytesExcept b' (fun off => off = bufOffset 4 ∨ off = bufOffset 16) ∧
      ∀ ps, s.far = none → s.port = .near → s.env = clks .near ps →
        (b.submit (.extPacket arg lvl) extPacketProg).wire ps =
          wireBytes true (b.bufBytes 0 4) ++ wireBytes false [b'.readBuf 4] ++
            wireBytes true (b.bufBytes 5 11) ++ wireBytes false [b'.readBuf 16]

/-- Derived from R280: an RSP_READ_CKSUM n that ends has OK, COUNT = n, CALC = the sum of the bytes now in buf[0..n-1],
DATA still driven and its handshake line DEASSERTED; no byte outside buf[0..n-1] is written. On a block alone, from a
byte boundary and with no stray edge, the wire brought those bytes, then carried the sum from it. -/
def Obligations.RspReadCksumResult : Prop :=
  ∀ (arg : Half) (lvl : Bool) (s t : State) (b b' : Block),
    s.readyFor (.rspReadCksum arg lvl) b → b.Inv → (∀ e ∈ s.env, e.isClk = true) →
    exec (.rspReadCksum arg lvl) s = .next t → t.get s.port = some b' → b'.busy = false →
    b'.finishedWith ⟨.ok, false, false, arg⟩ 0x18#5 ∧
      b'.regs.cksum = { b.regs.cksum with calcA := cksum (b'.bufBytes 0 arg.toNat) } ∧
      b'.out.dataOe = true ∧ b'.out.hsO = (!b.cfg.hsAssert) ∧
      b.sameBytesExcept b' (fun off => bufOffset 0 ≤ off ∧ off < bufOffset arg.toNat) ∧
      ∀ ps, s.far = none → s.port = .near → s.env = clks .near ps → b.atByteBoundary →
        b'.event .strayClk = false →
        (b.submit (.rspReadCksum arg lvl) (rspReadCksumProg arg.toNat)).wire ps =
          wireBytes false (b'.bufBytes 0 arg.toNat) ++ wireBytes true [cksum (b'.bufBytes 0 arg.toNat)]

/-- Derived from R290: an RSP_WRITE_CKSUM n that ends has OK, COUNT = n, CALC = the sum of buf[0..n-1], DATA still
driven and its handshake line DEASSERTED; the buffer stays. On a block alone, from a byte boundary and with no stray
edge, the wire carried from it the prefix (n[7:0] then n[15:8] in REV_A, n[7:0] in REV_B: 20_memory.md R100),
buf[0..n-1] and the sum. -/
def Obligations.RspWriteCksumResult : Prop :=
  ∀ (arg : Half) (lvl : Bool) (s t : State) (b b' : Block),
    s.readyFor (.rspWriteCksum arg lvl) b → b.Inv → (∀ e ∈ s.env, e.isClk = true) →
    exec (.rspWriteCksum arg lvl) s = .next t → t.get s.port = some b' → b'.busy = false →
    b'.finishedWith ⟨.ok, false, false, arg⟩ 0x19#5 ∧
      b'.regs.cksum = { b.regs.cksum with calcA := cksum (b.bufBytes 0 arg.toNat) } ∧
      b'.out.dataOe = true ∧ b'.out.hsO = (!b.cfg.hsAssert) ∧ b'.buf = b.buf ∧
      b'.bufEpoch = b.bufEpoch ∧
      ∀ ps, s.far = none → s.port = .near → s.env = clks .near ps → b.atByteBoundary →
        b'.event .strayClk = false →
        (b.submit (.rspWriteCksum arg lvl) (rspWriteCksumProg b.cfg.rev arg.toNat)).wire ps =
          wireBytes true (lenPrefix b.cfg.rev arg ++ b.bufBytes 0 arg.toNat ++
            [cksum (b.bufBytes 0 arg.toNat)])

/-! ## Framer operations: that they complete -/

/-- Derived from R250: from every state in which an initiator alone accepts SEND_CMD, and for every ack byte, some
schedule of its clock and pins makes it complete with that ack: OK and MATCH if the ack is the sum of buf[0..3],
CKSUM_MISMATCH if not. -/
def Obligations.SendCmdCompletes : Prop :=
  ∀ (arg : Half) (lvl : Bool) (s : State) (b : Block) (ack : Byte),
    s.aloneFor (.sendCmd arg lvl) b → b.Inv →
    let sum := cksum (b.bufBytes 0 4)
    ∃ ps t, exec (.sendCmd arg lvl) { s with env := clks .near ps } = .next t ∧
      t.near.finishedWith ⟨if ack = sum then .ok else .cksumMismatch, decide (ack = sum), false, 4#16⟩
        0x10#5 ∧
      t.near.regs.cksum = { b.regs.cksum with calcA := sum, rxackA := ack } ∧ t.near.buf = b.buf

/-- Derived from R260, 41_handshake.md R220 and 20_memory.md R100: from every state in which an initiator alone, its
peer's handshake line at rest, accepts READ_RESP, and for every payload the prefix can announce, within the cap, and every trailing byte, some schedule makes it complete
with OK, the payload in the buffer, ADVLEN and COUNT its length, the wire having brought the prefix, the payload and
that byte; and for every longer announced length, some schedule makes it end with OVERRUN and that ADVLEN, the wire
having brought the prefix alone. -/
def Obligations.ReadRespCompletes : Prop :=
  ∀ (arg : Half) (lvl : Bool) (s : State) (b : Block),
    s.aloneFor (.readResp arg lvl) b → b.Inv → b.hsQuiet →
    let cap := min arg.toNat b.cfg.bufSize.bytes
    (∀ (payload : List Byte) (trail : Byte), payload.length ≤ cap →
      (b.cfg.rev = .revB → payload.length < 256) →
      ∃ ps t, exec (.readResp arg lvl) { s with env := clks .near ps } = .next t ∧
        t.near.finishedWith ⟨.ok, decide (trail = cksum payload), false,
          BitVec.ofNat 16 payload.length⟩ 0x11#5 ∧
        t.near.regs.advlen = BitVec.ofNat 16 payload.length ∧
        t.near.bufBytes 0 payload.length = payload ∧
        t.near.regs.cksum = { b.regs.cksum with calcA := cksum payload, rxackA := trail } ∧
        (b.submit (.readResp arg lvl) (readRespProg b.cfg.rev)).wire ps =
          wireBytes false (lenPrefix b.cfg.rev (BitVec.ofNat 16 payload.length) ++ payload ++ [trail])) ∧
    (∀ len : Half, cap < len.toNat → (b.cfg.rev = .revB → len.toNat < 256) →
      ∃ ps t, exec (.readResp arg lvl) { s with env := clks .near ps } = .next t ∧
        t.near.finishedWith ⟨.overrun, false, false, 0#16⟩ 0x11#5 ∧ t.near.regs.advlen = len ∧
        t.near.buf = b.buf ∧
        (b.submit (.readResp arg lvl) (readRespProg b.cfg.rev)).wire ps =
          wireBytes false (lenPrefix b.cfg.rev len))

/-- Derived from R270: from every state in which an initiator alone accepts EXT_PACKET, and for every two acks, some
schedule makes it complete with OK, COUNT = 17 and those acks in buf[4] and buf[16]. -/
def Obligations.ExtPacketCompletes : Prop :=
  ∀ (arg : Half) (lvl : Bool) (s : State) (b : Block) (ackA ackB : Byte),
    s.aloneFor (.extPacket arg lvl) b → b.Inv →
    let sumA := cksum (b.bufBytes 0 4)
    let sumB := cksum (b.bufBytes 5 11)
    ∃ ps t, exec (.extPacket arg lvl) { s with env := clks .near ps } = .next t ∧
      t.near.finishedWith ⟨.ok, decide (ackA = sumA), decide (ackB = sumB), 17#16⟩ 0x12#5 ∧
      t.near.readBuf 4 = ackA ∧ t.near.readBuf 16 = ackB ∧
      t.near.regs.cksum = ⟨sumA, ackA, sumB, ackB⟩

/-- Derived from R280: from every state in which a responder alone, its clock quiet and BITCNT = 0, accepts
RSP_READ_CKSUM n, and for every n payload bytes, some schedule makes it complete with OK and the payload in
buf[0..n-1]. -/
def Obligations.RspReadCksumCompletes : Prop :=
  ∀ (arg : Half) (lvl : Bool) (s : State) (b : Block) (payload : List Byte),
    s.aloneFor (.rspReadCksum arg lvl) b → b.Inv → b.clockQuiet → b.xp.bitcnt = 0#3 →
    payload.length = arg.toNat →
    ∃ ps t, exec (.rspReadCksum arg lvl) { s with env := clks .near ps } = .next t ∧
      t.near.finishedWith ⟨.ok, false, false, arg⟩ 0x18#5 ∧
      t.near.bufBytes 0 arg.toNat = payload ∧ t.near.regs.cksum.calcA = cksum payload ∧
      t.near.out.dataOe = true ∧ t.near.out.dataO = (cksum payload).getLsbD 7

/-- Derived from R290: from every state in which a responder alone, its clock quiet and BITCNT = 0, accepts
RSP_WRITE_CKSUM n, some schedule makes it complete with OK, COUNT = n and CALC = the sum of buf[0..n-1], the prefix,
the payload and the sum put on the wire, LSB first. -/
def Obligations.RspWriteCksumCompletes : Prop :=
  ∀ (arg : Half) (lvl : Bool) (s : State) (b : Block),
    s.aloneFor (.rspWriteCksum arg lvl) b → b.Inv → b.clockQuiet → b.xp.bitcnt = 0#3 →
    let sum := cksum (b.bufBytes 0 arg.toNat)
    ∃ ps t, exec (.rspWriteCksum arg lvl) { s with env := clks .near ps } = .next t ∧
      t.near.finishedWith ⟨.ok, false, false, arg⟩ 0x19#5 ∧ t.near.regs.cksum.calcA = sum ∧
      t.near.out.dataOe = true ∧ t.near.out.dataO = sum.getLsbD 7 ∧
      (b.submit (.rspWriteCksum arg lvl) (rspWriteCksumProg b.cfg.rev arg.toNat)).wire ps =
        wireBytes true (lenPrefix b.cfg.rev arg ++ b.bufBytes 0 arg.toNat ++ [sum])

/-! ## Frames -/

/-- Derived from the "Flags written" of R180, R182 to R184, R230 to R236: NOP, DELAY, HS_DRIVE, the four waits,
DATA_ACQUIRE, DATA_RELEASE, XPORT_RESET and WRITE_BYTE, over a schedule of clock steps, write no buffer byte and
none of DATA, CKSUM and ADVLEN; MATCH, MATCH_B and, but for WRITE_BYTE, COUNT read 0; the settings stay; hs_o
changes only in HS_DRIVE, data_oe only in the four operations that say so, sck_o and an initiator's transport state
and data_o only in XPORT_RESET and WRITE_BYTE. -/
def Obligations.RegisterOnlyFrame : Prop :=
  ∀ (arg : Half) (lvl : Bool) (i : Instr) (s t : State) (b b' : Block),
    i ∈ [Instr.nop arg lvl, .delay arg lvl, .hsDrive arg lvl, .waitRise arg lvl, .waitFall arg lvl,
      .waitHigh arg lvl, .waitLow arg lvl, .dataAcquire arg lvl, .dataRelease arg lvl,
      .xportReset arg lvl, .writeByte arg lvl] →
    s.readyFor i b → (∀ e ∈ s.env, e.isClk = true) → exec i s = .next t →
    t.get s.port = some b' →
    b.sameBytesExcept b' (fun _ => False) ∧ b'.regs.data = b.regs.data ∧
      b'.regs.cksum = b.regs.cksum ∧ b'.regs.advlen = b.regs.advlen ∧ b.sameSettings b' ∧
      b'.regs.result.isMatch = false ∧ b'.regs.result.isMatchB = false ∧
      (i ≠ .writeByte arg lvl → b'.regs.result.count = 0#16) ∧
      (i ≠ .hsDrive arg lvl → b'.out.hsO = b.out.hsO) ∧
      (i ∉ [Instr.dataAcquire arg lvl, .dataRelease arg lvl, .xportReset arg lvl, .writeByte arg lvl] →
        b'.out.dataOe = b.out.dataOe) ∧
      (i ∉ [Instr.xportReset arg lvl, .writeByte arg lvl] → b'.out.sckO = b.out.sckO ∧
        (b.cfg.role = .initiator → b'.xp = b.xp ∧ b'.out.dataO = b.out.dataO))

/-- Derived from the "Flags written" of R181, R250, R290 and R305: READ_BYTE, CKSUM_COMPUTE, SEND_CMD and
RSP_WRITE_CKSUM, over a schedule of clock steps, write no buffer byte; DATA changes only in READ_BYTE, CALC not in
READ_BYTE, RXACK only in SEND_CMD; CALC_B, RXACK_B, ADVLEN and the settings stay, and MATCH_B reads 0; READ_BYTE
leaves hs_o and data_oe, and CKSUM_COMPUTE every line it drives and an initiator's transport state. -/
def Obligations.NonStoringFrame : Prop :=
  ∀ (arg : Half) (lvl : Bool) (i : Instr) (s t : State) (b b' : Block),
    i ∈ [Instr.readByte arg lvl, .cksumCompute arg lvl, .sendCmd arg lvl, .rspWriteCksum arg lvl] →
    s.readyFor i b → (∀ e ∈ s.env, e.isClk = true) → exec i s = .next t →
    t.get s.port = some b' →
    b.sameBytesExcept b' (fun _ => False) ∧ b.sameSettings b' ∧ b'.regs.advlen = b.regs.advlen ∧
      b'.regs.cksum.calcB = b.regs.cksum.calcB ∧ b'.regs.cksum.rxackB = b.regs.cksum.rxackB ∧
      b'.regs.result.isMatchB = false ∧
      (i ≠ .readByte arg lvl → b'.regs.data = b.regs.data) ∧
      (i = .readByte arg lvl → b'.regs.cksum = b.regs.cksum) ∧
      (i ≠ .sendCmd arg lvl → b'.regs.cksum.rxackA = b.regs.cksum.rxackA) ∧
      (i = .readByte arg lvl → b'.out.hsO = b.out.hsO ∧ b'.out.dataOe = b.out.dataOe) ∧
      (i = .cksumCompute arg lvl → b.out.sameDrive b'.out ∧
        (b.cfg.role = .initiator → b'.xp = b.xp ∧ b'.out.dataO = b.out.dataO))

/-- Derived from the "Flags written" of R260, R270 and R280: READ_RESP, EXT_PACKET and RSP_READ_CKSUM, over a schedule of
clock steps and whether they end or not, store only at the offsets of buf[j] that their lines name: j below the cap
for READ_RESP, 4 and 16 for EXT_PACKET, j below n for RSP_READ_CKSUM; DATA and the settings stay, ADVLEN changes
only in READ_RESP, the B fields of CKSUM only in EXT_PACKET. -/
def Obligations.StoringFrame : Prop :=
  ∀ (arg : Half) (lvl : Bool) (i : Instr) (s t : State) (b b' : Block),
    i ∈ [Instr.readResp arg lvl, .extPacket arg lvl, .rspReadCksum arg lvl] →
    s.readyFor i b → b.Inv → (∀ e ∈ s.env, e.isClk = true) → exec i s = .next t →
    t.get s.port = some b' →
    b.sameSettings b' ∧ b'.regs.data = b.regs.data ∧
      (i = .readResp arg lvl → b.sameBytesExcept b' (fun off =>
        ∃ j, j < min arg.toNat b.cfg.bufSize.bytes ∧ off = bufOffset j)) ∧
      (i = .extPacket arg lvl → b.sameBytesExcept b' (fun off =>
        off = bufOffset 4 ∨ off = bufOffset 16)) ∧
      (i = .rspReadCksum arg lvl → b.sameBytesExcept b' (fun off =>
        ∃ j, j < arg.toNat ∧ off = bufOffset j)) ∧
      (i ≠ .readResp arg lvl → b'.regs.advlen = b.regs.advlen) ∧
      (i ≠ .extPacket arg lvl →
        b'.regs.cksum.calcB = b.regs.cksum.calcB ∧ b'.regs.cksum.rxackB = b.regs.cksum.rxackB ∧
        b'.regs.result.isMatchB = false) ∧
      (i = .rspReadCksum arg lvl → b'.regs.cksum.rxackA = b.regs.cksum.rxackA)

/-! ## The whole machine -/

/-- Derived from 20_memory.md R104 and 93_implementation_defined.md I2: once a step leaves both blocks driving DATA,
CONTENTION is recorded and no step clears it; while both drive, a block's data_i is the draw the schedule brings, and
any sample of data_i that a step of either clock takes, with a host's write to EVENTS in it or without, is the next
draw, whatever the synchroniser holds: the bit
that XferI reads, and the bit of the step that a responder's engine shifts in (ResponderFollowsTheClock). -/
def Obligations.ContentionIsRecordedForEver : Prop :=
  (∀ (s : State) (e : Event), s.present e = true → (s.apply e).contending = true →
    (s.apply e).contention = true) ∧
  (∀ s t : State, step s = .next t → s.contention = true → t.contention = true) ∧
  (∀ (s : State) (f : Block) (p : Pins), s.far = some f → s.contending = true →
    (s.pinsAt .near s.near p).data = p.data ∧ (s.pinsAt .far f p).data = p.data) ∧
  (∀ (s : State) (e : Event) (b : Block), e.clocks = true → s.get e.side = some b → b.rstN = true →
    s.contending = true →
    ∃ b', (s.apply e).get e.side = some b' ∧ b'.sync.bit = Config.slipBit s.draws ∧
      (s.apply e).draws = s.draws + 1 ∧
      (∀ rest, b.seq.prog = .run (.takeBit .rd :: rest) → b'.seq.locs.d = Config.slipBit s.draws))

/-- Derived from 60_exceptions.md R356: the two blocks share nothing but the lines: an event changes only its own block,
and what it makes of that block depends on the peer only through the peer's output registers and, where DATA has
no single driver or the clock timing of R380 is not met, through the bit drawn (log 6, log 17). -/
def Obligations.BlocksShareOnlyTheLines : Prop :=
  ∀ (s u : State) (e : Event),
    (s.apply e).get e.side.other = s.get e.side.other ∧
    (s.get e.side = u.get e.side →
      (s.get e.side.other).map Block.out = (u.get e.side.other).map Block.out →
      s.slip e.side = u.slip e.side →
      (s.apply e).get e.side = (u.apply e).get e.side)

/-- Derived from 41_handshake.md R217 (e) and R224: over any schedule of clock steps, an initiator running an operation it
accepted does not drive DATA from the falling edge that starts a bit it reads until it has taken the bit: the bit
is then at most three lines away. -/
def Obligations.InitiatorReleasesBeforeItReads : Prop :=
  ∀ (i : Instr) (s t : State) (b b' : Block) (pre rest : List Line),
    s.readyFor i b → b.cfg.role = .initiator → (∀ e ∈ s.env, e.isClk = true) →
    exec i s = .next t → t.get s.port = some b' →
    b'.seq.prog = .run (pre ++ .takeBit .rd :: rest) → pre.length ≤ 3 →
    b'.out.dataOe = false

/-- Derived from 42_framer.md R295, for one choice of the timing registers (PREPOLL = BYTE_SETTLE = 0, CLKDIV.DIV = 6,
which meets 70_reset_and_hazards.md R380 at equal clocks), the builds of log 1 and the steps of the two clocks in turn: for
every four frame bytes, SEND_CMD on the initiator against a waiting RSP_READ_CKSUM 4 completes on both sides, the
bytes in the responder's buffer and the ack equal to their sum, with no contention. That 1100 steps of each
suffice rests on the counts of log 7 and log 8. -/
def Obligations.MatchedSendCmdAndRspReadCksum : Prop :=
  ∀ (c0 c1 c2 c3 : Byte) (float : Level) (s1 : State),
    let ini : Block := { Block.reset (.default .initiator) true ⟨.near, 0⟩ with
      buf := [(0x400, c0), (0x401, c1), (0x402, c2), (0x403, c3)]
      regs.prepoll := 0#16
      regs.byteSettle := 0#16
      regs.clkdiv := 6#16 }
    let rsp : Block := { Block.reset (.default .responder) true ⟨.far, 0⟩ with regs.prepoll := 0#16 }
    exec (.rspReadCksum 4#16 false) ⟨ini, some rsp, false, .rest, 0, [], .far, []⟩ = .next s1 →
    ∃ t r, exec (.sendCmd 0#16 false) { s1 with port := .near, env := lockstep float 1100 } = .next t ∧
      t.far = some r ∧ t.contention = false ∧
      t.near.finishedWith ⟨.ok, true, false, 4#16⟩ 0x10#5 ∧
      r.finishedWith ⟨.ok, false, false, 4#16⟩ 0x18#5 ∧
      t.near.regs.cksum.calcA = c0 + c1 + c2 + c3 ∧ t.near.regs.cksum.rxackA = c0 + c1 + c2 + c3 ∧
      r.regs.cksum.calcA = c0 + c1 + c2 + c3 ∧ r.bufBytes 0 4 = [c0, c1, c2, c3] ∧
      t.near.out.hsO = true ∧ r.out.hsO = true ∧ t.near.out.dataOe = false ∧ r.out.dataOe = true

/-- Derived from 10_state.md R67: the invariant of the next statement, with what it takes from the model's choices
(log 2, log 16, log 23), holds right after reset, for every pair of builds. -/
def Obligations.ResetMeetsInvariant : Prop :=
  State.reset.Inv ∧
  ∀ (cn : Config) (cf : Option Config), cn.wf = true → (∀ c, cf = some c → c.wf = true) →
    (State.resetWith cn cf).Inv

/-- Derived from 20_memory.md R103 and R104, 10_state.md R49, R62 to R65, 40_transport.md R172 and 60_exceptions.md R347
and R353: every step, of any schedule, from any state that meets the invariant, keeps it; among its clauses, an
initiator's clk cycle has one sequencer step (oneStep). Of its clauses these are the model's choice: the form of the
buffer and whose unwritten bytes are whose (bufWf, nearBytes, farBytes: log 2), a responder's sck_o at 1 (responder:
log 16), the counters at 0 outside their waits (timersRest, holdRest: log 23). -/
def Obligations.StepKeepsInvariant : Prop :=
  ∀ s t : State, s.Inv → step s = .next t → t.Inv

/-! ## Registers as they read, and bits that the clock timing does not vouch for -/

/-- Derived from 10_state.md R40, R46, R47, R49, R51, R58 and R59 and 60_exceptions.md R320: EVENTS, RESULT, CKSUM and
ADVLEN as the host reads them, field by field, the reserved bits 0; CTRL and CMD read 0. -/
def Obligations.RegisterReads : Prop :=
  ∀ b : Block, b.rstN = true →
    let events := b.hostRead 0x014 4
    let result := b.hostRead 0x01C 4
    let sums := b.hostRead 0x024 4
    let advlen := b.hostRead 0x028 4
    (events.getLsbD 0 = b.event .done ∧ events.getLsbD 1 = b.event .err ∧
      events.getLsbD 2 = b.event .cmdIgnored ∧ events.getLsbD 3 = b.event .strayClk ∧
      events.getLsbD 4 = b.event .wrIgnored ∧ events.extractLsb' 5 27 = 0#27) ∧
    ((result.extractLsb' 0 4).toNat = (match b.regs.result.code with
        | .none => 0
        | .ok => 1
        | .cksumMismatch => 2
        | .overrun => 3
        | .errRole => 4
        | .errArg => 5
        | .errOp => 6
        | .errDir => 7) ∧
      result.extractLsb' 4 4 = 0#4 ∧ result.getLsbD 8 = b.regs.result.isMatch ∧
      result.getLsbD 9 = b.regs.result.isMatchB ∧ result.extractLsb' 10 6 = 0#6 ∧
      result.extractLsb' 16 16 = b.regs.result.count) ∧
    (sums.extractLsb' 0 8 = b.regs.cksum.calcA ∧ sums.extractLsb' 8 8 = b.regs.cksum.rxackA ∧
      sums.extractLsb' 16 8 = b.regs.cksum.calcB ∧ sums.extractLsb' 24 8 = b.regs.cksum.rxackB) ∧
    (advlen.extractLsb' 0 16 = b.regs.advlen ∧ advlen.extractLsb' 16 16 = 0#16) ∧
    b.hostRead 0x008 4 = 0#32 ∧ b.hostRead 0x00C 4 = 0#32

/-- Derived from 70_reset_and_hazards.md R380, 20_memory.md R104, 60_exceptions.md R356 and 93_implementation_defined.md I1,
I2 and I10 (the count in clk cycles is the model's, log 17): the bit that a sample takes is the next draw where DATA
has no single driver in the step or the timing does not vouch for it; any other is the synchronised level. On a bus
of one initiator and one responder, whichever side each is on: a responder's bit is a draw while a level of CLK that
the responder had fewer than two cycles of has spoilt the byte (a), and an initiator's also, but for bit 0, after a
rising edge before which the responder has not run S_R + 2 cycles and then the initiator S_I + 1 since the falling
edge, until the next edge (b). The counts restart at each change of CLK; a cycle of the responder adds to its count
up to S_R + 2; a cycle of the initiator adds to its own up to S_I + 1, and only once the responder's stands at
S_R + 2; the spoilt byte is over in the first responder cycle after S_R + 2 of them with CLK high, the initiator's
BITCNT at 0 and no bit still to take, shift in or count; and no other step changes any of the four. A
step of the clock is one with a host's write to EVENTS in it too (clkClear). -/
def Obligations.LateBitsAreDraws : Prop :=
  (∀ (s : State) (e : Event) (b : Block), e.clocks = true → s.get e.side = some b → b.rstN = true →
    ∃ b', (s.apply e).get e.side = some b' ∧
      (s.loose = true ∨ s.slips e.side = true →
        b'.sync.bit = Config.slipBit s.draws ∧ (s.apply e).draws = s.draws + 1) ∧
      (s.loose = false → s.slips e.side = false → (s.apply e).draws = s.draws ∧
        b'.sync.bit = if b.seq.mid then b.sync.bit else lastStage b'.sync.data) ∧
      (∀ rest, b.seq.prog = .run (.takeBit .rd :: rest) → b'.seq.locs.d = b'.sync.bit)) ∧
  (∀ (s : State) (e : Event), e.clocks = false → (s.apply e).draws = s.draws) ∧
  (∀ s : State, s.loose = true ↔ ∃ f, s.far = some f ∧ f.out.dataOe = s.near.out.dataOe) ∧
  (∀ (s : State) (is : Side) (i r : Block), s.get is = some i → s.get is.other = some r →
    i.cfg.role = .initiator → r.cfg.role = .responder →
    s.slips is.other = s.pace.slipped ∧
    s.slips is = (s.pace.slipped || s.pace.late) ∧
    (∀ (e : Event) (i' : Block), (s.apply e).get is = some i' → i'.out.sckO ≠ i.out.sckO →
      (s.apply e).pace = ⟨0, 0, s.pace.slipped || decide (s.pace.rCycles < 2),
        i'.out.sckO && decide (i.xp.bitcnt ≠ 0#3 ∧
          (s.pace.rCycles < r.cfg.syncStages + 2 ∨ s.pace.iCycles < i.cfg.syncStages + 1))⟩) ∧
    (∀ e : Event, e.clocks = true → e.side = is.other → r.startsCycle = true → (s.apply e).pace = { s.pace with
      rCycles := min (r.cfg.syncStages + 2) (s.pace.rCycles + 1)
      slipped := s.pace.slipped && !(i.out.sckO && decide (i.xp.bitcnt = 0#3) && !i.takingBit &&
        decide (r.cfg.syncStages + 2 ≤ s.pace.rCycles)) }) ∧
    (i.takingBit = true ↔ ∃ l rest, i.seq.prog = .run (l :: rest) ∧
      l ∈ [.takeBit .wr, .takeBit .rd, .shiftBit, .countBit]) ∧
    (∀ (e : Event) (i' : Block), e.clocks = true → e.side = is → i.startsCycle = true →
      (s.apply e).get is = some i' → i'.out.sckO = i.out.sckO → (s.apply e).pace = { s.pace with
        iCycles := if r.cfg.syncStages + 2 ≤ s.pace.rCycles
          then min (i.cfg.syncStages + 1) (s.pace.iCycles + 1) else s.pace.iCycles }) ∧
    (∀ (e : Event) (i' : Block), s.begins e = false → (s.apply e).get is = some i' →
      i'.out.sckO = i.out.sckO → (s.apply e).pace = s.pace))
end

