-- ==== Sys2Proof/Laws/State.lean ====
section
/-! SUPPORT. What each named update of a block or of the bus changes, field by field, so that no later
proof unfolds an update. -/

namespace Sys2Proof.Machine

/-! ## Updates of a block -/

@[simp] theorem Block.raise_cfg (b : Block) (e : EventBit) : (b.raise e).cfg = b.cfg := rfl
@[simp] theorem Block.raise_rstN (b : Block) (e : EventBit) : (b.raise e).rstN = b.rstN := rfl
@[simp] theorem Block.raise_regs (b : Block) (e : EventBit) : (b.raise e).regs = { b.regs with events := b.regs.events ||| e.mask } := rfl
@[simp] theorem Block.raise_buf (b : Block) (e : EventBit) : (b.raise e).buf = b.buf := rfl
@[simp] theorem Block.raise_bufEpoch (b : Block) (e : EventBit) : (b.raise e).bufEpoch = b.bufEpoch := rfl
@[simp] theorem Block.raise_seq (b : Block) (e : EventBit) : (b.raise e).seq = b.seq := rfl
@[simp] theorem Block.raise_xp (b : Block) (e : EventBit) : (b.raise e).xp = b.xp := rfl
@[simp] theorem Block.raise_out (b : Block) (e : EventBit) : (b.raise e).out = b.out := rfl
@[simp] theorem Block.raise_sync (b : Block) (e : EventBit) : (b.raise e).sync = b.sync := rfl
@[simp] theorem Block.raise_tmr (b : Block) (e : EventBit) : (b.raise e).tmr = b.tmr := rfl

@[simp] theorem Block.clearEvents_cfg (b : Block) (v : Word) : (b.clearEvents v).cfg = b.cfg := rfl
@[simp] theorem Block.clearEvents_rstN (b : Block) (v : Word) : (b.clearEvents v).rstN = b.rstN := rfl
@[simp] theorem Block.clearEvents_regs (b : Block) (v : Word) : (b.clearEvents v).regs = { b.regs with events := b.regs.events &&& ~~~(v.extractLsb' 0 5) } := rfl
@[simp] theorem Block.clearEvents_buf (b : Block) (v : Word) : (b.clearEvents v).buf = b.buf := rfl
@[simp] theorem Block.clearEvents_bufEpoch (b : Block) (v : Word) : (b.clearEvents v).bufEpoch = b.bufEpoch := rfl
@[simp] theorem Block.clearEvents_seq (b : Block) (v : Word) : (b.clearEvents v).seq = b.seq := rfl
@[simp] theorem Block.clearEvents_xp (b : Block) (v : Word) : (b.clearEvents v).xp = b.xp := rfl
@[simp] theorem Block.clearEvents_out (b : Block) (v : Word) : (b.clearEvents v).out = b.out := rfl
@[simp] theorem Block.clearEvents_sync (b : Block) (v : Word) : (b.clearEvents v).sync = b.sync := rfl
@[simp] theorem Block.clearEvents_tmr (b : Block) (v : Word) : (b.clearEvents v).tmr = b.tmr := rfl

@[simp] theorem Block.driveOe_cfg (b : Block) (v : Bool) : (b.driveOe v).cfg = b.cfg := rfl
@[simp] theorem Block.driveOe_rstN (b : Block) (v : Bool) : (b.driveOe v).rstN = b.rstN := rfl
@[simp] theorem Block.driveOe_regs (b : Block) (v : Bool) : (b.driveOe v).regs = b.regs := rfl
@[simp] theorem Block.driveOe_buf (b : Block) (v : Bool) : (b.driveOe v).buf = b.buf := rfl
@[simp] theorem Block.driveOe_bufEpoch (b : Block) (v : Bool) : (b.driveOe v).bufEpoch = b.bufEpoch := rfl
@[simp] theorem Block.driveOe_seq (b : Block) (v : Bool) : (b.driveOe v).seq = b.seq := rfl
@[simp] theorem Block.driveOe_xp (b : Block) (v : Bool) : (b.driveOe v).xp = b.xp := rfl
@[simp] theorem Block.driveOe_out (b : Block) (v : Bool) : (b.driveOe v).out = { b.out with dataOe := v } := rfl
@[simp] theorem Block.driveOe_sync (b : Block) (v : Bool) : (b.driveOe v).sync = b.sync := rfl
@[simp] theorem Block.driveOe_tmr (b : Block) (v : Bool) : (b.driveOe v).tmr = b.tmr := rfl

@[simp] theorem Block.driveData_cfg (b : Block) (v : Level) : (b.driveData v).cfg = b.cfg := rfl
@[simp] theorem Block.driveData_rstN (b : Block) (v : Level) : (b.driveData v).rstN = b.rstN := rfl
@[simp] theorem Block.driveData_regs (b : Block) (v : Level) : (b.driveData v).regs = b.regs := rfl
@[simp] theorem Block.driveData_buf (b : Block) (v : Level) : (b.driveData v).buf = b.buf := rfl
@[simp] theorem Block.driveData_bufEpoch (b : Block) (v : Level) : (b.driveData v).bufEpoch = b.bufEpoch := rfl
@[simp] theorem Block.driveData_seq (b : Block) (v : Level) : (b.driveData v).seq = b.seq := rfl
@[simp] theorem Block.driveData_xp (b : Block) (v : Level) : (b.driveData v).xp = b.xp := rfl
@[simp] theorem Block.driveData_out (b : Block) (v : Level) : (b.driveData v).out = { b.out with dataO := v } := rfl
@[simp] theorem Block.driveData_sync (b : Block) (v : Level) : (b.driveData v).sync = b.sync := rfl
@[simp] theorem Block.driveData_tmr (b : Block) (v : Level) : (b.driveData v).tmr = b.tmr := rfl

@[simp] theorem Block.driveSck_cfg (b : Block) (v : Level) : (b.driveSck v).cfg = b.cfg := rfl
@[simp] theorem Block.driveSck_rstN (b : Block) (v : Level) : (b.driveSck v).rstN = b.rstN := rfl
@[simp] theorem Block.driveSck_regs (b : Block) (v : Level) : (b.driveSck v).regs = b.regs := rfl
@[simp] theorem Block.driveSck_buf (b : Block) (v : Level) : (b.driveSck v).buf = b.buf := rfl
@[simp] theorem Block.driveSck_bufEpoch (b : Block) (v : Level) : (b.driveSck v).bufEpoch = b.bufEpoch := rfl
@[simp] theorem Block.driveSck_seq (b : Block) (v : Level) : (b.driveSck v).seq = b.seq := rfl
@[simp] theorem Block.driveSck_xp (b : Block) (v : Level) : (b.driveSck v).xp = b.xp := rfl
@[simp] theorem Block.driveSck_out (b : Block) (v : Level) : (b.driveSck v).out = { b.out with sckO := v } := rfl
@[simp] theorem Block.driveSck_sync (b : Block) (v : Level) : (b.driveSck v).sync = b.sync := rfl
@[simp] theorem Block.driveSck_tmr (b : Block) (v : Level) : (b.driveSck v).tmr = b.tmr := rfl

@[simp] theorem Block.driveHs_cfg (b : Block) (v : Level) : (b.driveHs v).cfg = b.cfg := rfl
@[simp] theorem Block.driveHs_rstN (b : Block) (v : Level) : (b.driveHs v).rstN = b.rstN := rfl
@[simp] theorem Block.driveHs_regs (b : Block) (v : Level) : (b.driveHs v).regs = b.regs := rfl
@[simp] theorem Block.driveHs_buf (b : Block) (v : Level) : (b.driveHs v).buf = b.buf := rfl
@[simp] theorem Block.driveHs_bufEpoch (b : Block) (v : Level) : (b.driveHs v).bufEpoch = b.bufEpoch := rfl
@[simp] theorem Block.driveHs_seq (b : Block) (v : Level) : (b.driveHs v).seq = b.seq := rfl
@[simp] theorem Block.driveHs_xp (b : Block) (v : Level) : (b.driveHs v).xp = b.xp := rfl
@[simp] theorem Block.driveHs_out (b : Block) (v : Level) : (b.driveHs v).out = { b.out with hsO := v } := rfl
@[simp] theorem Block.driveHs_sync (b : Block) (v : Level) : (b.driveHs v).sync = b.sync := rfl
@[simp] theorem Block.driveHs_tmr (b : Block) (v : Level) : (b.driveHs v).tmr = b.tmr := rfl

@[simp] theorem Block.goto_cfg (b : Block) (ls : List Line) : (b.goto ls).cfg = b.cfg := rfl
@[simp] theorem Block.goto_rstN (b : Block) (ls : List Line) : (b.goto ls).rstN = b.rstN := rfl
@[simp] theorem Block.goto_regs (b : Block) (ls : List Line) : (b.goto ls).regs = b.regs := rfl
@[simp] theorem Block.goto_buf (b : Block) (ls : List Line) : (b.goto ls).buf = b.buf := rfl
@[simp] theorem Block.goto_bufEpoch (b : Block) (ls : List Line) : (b.goto ls).bufEpoch = b.bufEpoch := rfl
@[simp] theorem Block.goto_seq (b : Block) (ls : List Line) : (b.goto ls).seq = { b.seq with prog := .run (b.dropZero ls) } := rfl
@[simp] theorem Block.goto_xp (b : Block) (ls : List Line) : (b.goto ls).xp = b.xp := rfl
@[simp] theorem Block.goto_out (b : Block) (ls : List Line) : (b.goto ls).out = b.out := rfl
@[simp] theorem Block.goto_sync (b : Block) (ls : List Line) : (b.goto ls).sync = b.sync := rfl
@[simp] theorem Block.goto_tmr (b : Block) (ls : List Line) : (b.goto ls).tmr = b.tmr := rfl

@[simp] theorem Block.writeBuf_cfg (b : Block) (j : Nat) (v : Byte) : (b.writeBuf j v).cfg = b.cfg := rfl
@[simp] theorem Block.writeBuf_rstN (b : Block) (j : Nat) (v : Byte) : (b.writeBuf j v).rstN = b.rstN := rfl
@[simp] theorem Block.writeBuf_regs (b : Block) (j : Nat) (v : Byte) : (b.writeBuf j v).regs = b.regs := rfl
@[simp] theorem Block.writeBuf_buf (b : Block) (j : Nat) (v : Byte) : (b.writeBuf j v).buf = b.buf.writeByte (bufOffset j) v := rfl
@[simp] theorem Block.writeBuf_bufEpoch (b : Block) (j : Nat) (v : Byte) : (b.writeBuf j v).bufEpoch = b.bufEpoch := rfl
@[simp] theorem Block.writeBuf_seq (b : Block) (j : Nat) (v : Byte) : (b.writeBuf j v).seq = b.seq := rfl
@[simp] theorem Block.writeBuf_xp (b : Block) (j : Nat) (v : Byte) : (b.writeBuf j v).xp = b.xp := rfl
@[simp] theorem Block.writeBuf_out (b : Block) (j : Nat) (v : Byte) : (b.writeBuf j v).out = b.out := rfl
@[simp] theorem Block.writeBuf_sync (b : Block) (j : Nat) (v : Byte) : (b.writeBuf j v).sync = b.sync := rfl
@[simp] theorem Block.writeBuf_tmr (b : Block) (j : Nat) (v : Byte) : (b.writeBuf j v).tmr = b.tmr := rfl

@[simp] theorem Block.withLocs_cfg (b : Block) (l : Locals) : (b.withLocs l).cfg = b.cfg := rfl
@[simp] theorem Block.withLocs_rstN (b : Block) (l : Locals) : (b.withLocs l).rstN = b.rstN := rfl
@[simp] theorem Block.withLocs_regs (b : Block) (l : Locals) : (b.withLocs l).regs = b.regs := rfl
@[simp] theorem Block.withLocs_buf (b : Block) (l : Locals) : (b.withLocs l).buf = b.buf := rfl
@[simp] theorem Block.withLocs_bufEpoch (b : Block) (l : Locals) : (b.withLocs l).bufEpoch = b.bufEpoch := rfl
@[simp] theorem Block.withLocs_seq (b : Block) (l : Locals) : (b.withLocs l).seq = { b.seq with locs := l } := rfl
@[simp] theorem Block.withLocs_xp (b : Block) (l : Locals) : (b.withLocs l).xp = b.xp := rfl
@[simp] theorem Block.withLocs_out (b : Block) (l : Locals) : (b.withLocs l).out = b.out := rfl
@[simp] theorem Block.withLocs_sync (b : Block) (l : Locals) : (b.withLocs l).sync = b.sync := rfl
@[simp] theorem Block.withLocs_tmr (b : Block) (l : Locals) : (b.withLocs l).tmr = b.tmr := rfl

@[simp] theorem Block.setJ_cfg (b : Block) (j : Nat) : (b.setJ j).cfg = b.cfg := rfl
@[simp] theorem Block.setJ_rstN (b : Block) (j : Nat) : (b.setJ j).rstN = b.rstN := rfl
@[simp] theorem Block.setJ_regs (b : Block) (j : Nat) : (b.setJ j).regs = b.regs := rfl
@[simp] theorem Block.setJ_buf (b : Block) (j : Nat) : (b.setJ j).buf = b.buf := rfl
@[simp] theorem Block.setJ_bufEpoch (b : Block) (j : Nat) : (b.setJ j).bufEpoch = b.bufEpoch := rfl
@[simp] theorem Block.setJ_seq (b : Block) (j : Nat) : (b.setJ j).seq = { b.seq with locs.j := BitVec.ofNat 16 j } := rfl
@[simp] theorem Block.setJ_xp (b : Block) (j : Nat) : (b.setJ j).xp = b.xp := rfl
@[simp] theorem Block.setJ_out (b : Block) (j : Nat) : (b.setJ j).out = b.out := rfl
@[simp] theorem Block.setJ_sync (b : Block) (j : Nat) : (b.setJ j).sync = b.sync := rfl
@[simp] theorem Block.setJ_tmr (b : Block) (j : Nat) : (b.setJ j).tmr = b.tmr := rfl

@[simp] theorem Block.latchPrev_cfg (b : Block) : (b.latchPrev).cfg = b.cfg := rfl
@[simp] theorem Block.latchPrev_rstN (b : Block) : (b.latchPrev).rstN = b.rstN := rfl
@[simp] theorem Block.latchPrev_regs (b : Block) : (b.latchPrev).regs = b.regs := rfl
@[simp] theorem Block.latchPrev_buf (b : Block) : (b.latchPrev).buf = b.buf := rfl
@[simp] theorem Block.latchPrev_bufEpoch (b : Block) : (b.latchPrev).bufEpoch = b.bufEpoch := rfl
@[simp] theorem Block.latchPrev_seq (b : Block) : (b.latchPrev).seq = b.seq := rfl
@[simp] theorem Block.latchPrev_xp (b : Block) : (b.latchPrev).xp = b.xp := rfl
@[simp] theorem Block.latchPrev_out (b : Block) : (b.latchPrev).out = b.out := rfl
@[simp] theorem Block.latchPrev_sync (b : Block) : (b.latchPrev).sync = { b.sync with hsPrev := b.hsSample } := rfl
@[simp] theorem Block.latchPrev_tmr (b : Block) : (b.latchPrev).tmr = b.tmr := rfl

/-! ## finish -/

@[simp] theorem Block.finish_cfg (b : Block) (c : ResultCode) : (b.finish c).cfg = b.cfg := by
  unfold Block.finish; cases c <;> rfl
@[simp] theorem Block.finish_rstN (b : Block) (c : ResultCode) : (b.finish c).rstN = b.rstN := by
  unfold Block.finish; cases c <;> rfl
@[simp] theorem Block.finish_buf (b : Block) (c : ResultCode) : (b.finish c).buf = b.buf := by
  unfold Block.finish; cases c <;> rfl
@[simp] theorem Block.finish_bufEpoch (b : Block) (c : ResultCode) : (b.finish c).bufEpoch = b.bufEpoch := by
  unfold Block.finish; cases c <;> rfl
@[simp] theorem Block.finish_xp (b : Block) (c : ResultCode) : (b.finish c).xp = b.xp := by
  unfold Block.finish; cases c <;> rfl
@[simp] theorem Block.finish_out (b : Block) (c : ResultCode) : (b.finish c).out = b.out := by
  unfold Block.finish; cases c <;> rfl
@[simp] theorem Block.finish_sync (b : Block) (c : ResultCode) : (b.finish c).sync = b.sync := by
  unfold Block.finish; cases c <;> rfl
@[simp] theorem Block.finish_tmr (b : Block) (c : ResultCode) : (b.finish c).tmr = b.tmr := by
  unfold Block.finish; cases c <;> rfl
@[simp] theorem Block.finish_seq (b : Block) (c : ResultCode) :
    (b.finish c).seq = { b.seq with prog := .idle } := by
  unfold Block.finish; cases c <;> rfl
@[simp] theorem Block.finish_busy (b : Block) (c : ResultCode) : (b.finish c).busy = false := by
  simp [Block.busy]

/-- finish writes RESULT.CODE, DONE and, for an error, ERR (60_exceptions.md R331). -/
theorem Block.finish_regs (b : Block) (c : ResultCode) :
    (b.finish c).regs = { b.regs with
      result.code := c
      events := b.regs.events ||| EventBit.done.mask ||| (if c.isError then EventBit.err.mask else 0#5) } := by
  unfold Block.finish; cases c <;> simp [ResultCode.isError, ResultCode.bits]
@[simp] theorem Block.finish_result (b : Block) (c : ResultCode) :
    (b.finish c).regs.result = { b.regs.result with code := c } := by rw [Block.finish_regs]
@[simp] theorem Block.finish_statusOp (b : Block) (c : ResultCode) : (b.finish c).regs.statusOp = b.regs.statusOp := by
  rw [Block.finish_regs]
@[simp] theorem Block.finish_irqEn (b : Block) (c : ResultCode) : (b.finish c).regs.irqEn = b.regs.irqEn := by
  rw [Block.finish_regs]
@[simp] theorem Block.finish_data (b : Block) (c : ResultCode) : (b.finish c).regs.data = b.regs.data := by
  rw [Block.finish_regs]
@[simp] theorem Block.finish_cksum (b : Block) (c : ResultCode) : (b.finish c).regs.cksum = b.regs.cksum := by
  rw [Block.finish_regs]
@[simp] theorem Block.finish_advlen (b : Block) (c : ResultCode) : (b.finish c).regs.advlen = b.regs.advlen := by
  rw [Block.finish_regs]
@[simp] theorem Block.finish_tickdiv (b : Block) (c : ResultCode) : (b.finish c).regs.tickdiv = b.regs.tickdiv := by
  rw [Block.finish_regs]
@[simp] theorem Block.finish_clkdiv (b : Block) (c : ResultCode) : (b.finish c).regs.clkdiv = b.regs.clkdiv := by
  rw [Block.finish_regs]
@[simp] theorem Block.finish_byteSettle (b : Block) (c : ResultCode) : (b.finish c).regs.byteSettle = b.regs.byteSettle := by
  rw [Block.finish_regs]
@[simp] theorem Block.finish_prepoll (b : Block) (c : ResultCode) : (b.finish c).regs.prepoll = b.regs.prepoll := by
  rw [Block.finish_regs]
@[simp] theorem Block.finish_extSettle (b : Block) (c : ResultCode) : (b.finish c).regs.extSettle = b.regs.extSettle := by
  rw [Block.finish_regs]

/-! ## The bus -/

@[simp] theorem State.get_near (s : State) : s.get .near = some s.near := rfl
@[simp] theorem State.get_far (s : State) : s.get .far = s.far := rfl
@[simp] theorem State.set_env (s : State) (side : Side) (b : Block) : (s.set side b).env = s.env := by
  cases side <;> rfl
@[simp] theorem State.set_port (s : State) (side : Side) (b : Block) : (s.set side b).port = s.port := by
  cases side <;> rfl
@[simp] theorem State.set_replies (s : State) (side : Side) (b : Block) :
    (s.set side b).replies = s.replies := by cases side <;> rfl
@[simp] theorem State.set_contention (s : State) (side : Side) (b : Block) :
    (s.set side b).contention = s.contention := by cases side <;> rfl
@[simp] theorem State.set_pace (s : State) (side : Side) (b : Block) : (s.set side b).pace = s.pace := by
  cases side <;> rfl
@[simp] theorem State.set_draws (s : State) (side : Side) (b : Block) : (s.set side b).draws = s.draws := by
  cases side <;> rfl
@[simp] theorem State.note_pace (s : State) : s.note.pace = s.pace := rfl
@[simp] theorem State.note_draws (s : State) : s.note.draws = s.draws := rfl
@[simp] theorem State.note_near (s : State) : s.note.near = s.near := rfl
@[simp] theorem State.note_far (s : State) : s.note.far = s.far := rfl
@[simp] theorem State.note_env (s : State) : s.note.env = s.env := rfl
@[simp] theorem State.note_port (s : State) : s.note.port = s.port := rfl
@[simp] theorem State.note_replies (s : State) : s.note.replies = s.replies := rfl
@[simp] theorem State.note_contention (s : State) :
    s.note.contention = (s.contention || s.contending) := rfl
@[simp] theorem State.note_get (s : State) (side : Side) : s.note.get side = s.get side := by
  cases side <;> rfl

/-- A block put on a side that has one is the block there. -/
theorem State.get_set_same {s : State} {side : Side} {b0 : Block} (b : Block)
    (h : s.get side = some b0) : (s.set side b).get side = some b := by
  cases side with
  | near => rfl
  | far => simp only [State.get] at h; simp [State.set, State.get, h]

/-- The other side is untouched. -/
theorem State.get_set_other (s : State) (side : Side) (b : Block) :
    (s.set side b).get side.other = s.get side.other := by cases side <;> rfl

theorem State.get_set_ne (s : State) {side other : Side} (b : Block) (h : other ≠ side) :
    (s.set side b).get other = s.get other := by
  cases side <;> cases other <;> first | rfl | exact absurd rfl h

@[simp] theorem State.get_withEnv (s : State) (es : List Event) (side : Side) :
    ({ s with env := es } : State).get side = s.get side := by cases side <;> rfl
@[simp] theorem State.get_withReplies (s : State) (r : List Reply) (side : Side) :
    ({ s with replies := r } : State).get side = s.get side := by cases side <;> rfl
@[simp] theorem State.get_withRecord (s : State) (k : Pace) (n : Nat) (r : List Reply) (side : Side) :
    ({ s with pace := k, draws := n, replies := r } : State).get side = s.get side := by cases side <;> rfl
@[simp] theorem State.get_withPort (s : State) (p : Side) (side : Side) :
    ({ s with port := p } : State).get side = s.get side := by cases side <;> rfl

end Sys2Proof.Machine
end

