-- ==== Sys2Proof/Laws/Check.lean ====
section
/-! SUPPORT. The machine's check of a command (Machine/Ops.lean) agrees with well-formedness
(WellFormed.lean), and what submission can do. -/

namespace Sys2Proof.Machine

theorem roleAccepts_eq_roleOk (r : Role) (i : Instr) : roleAccepts r i = i.roleOk r := by
  cases i <;> cases r <;> rfl

theorem argInRange_eq_argOk (c : Config) (i : Instr) : argInRange c i = i.argOk c := by
  cases i with
  | rspWriteCksum arg lvl =>
    cases h : c.rev with
    | revA =>
      simp only [argInRange, argLimit, Instr.argOk, Instr.arg, h]
      by_cases h1 : arg.toNat ≤ c.bufSize.bytes <;> simp [h1]
    | revB =>
      simp only [argInRange, argLimit, Instr.argOk, Instr.arg, h]
      by_cases h1 : arg.toNat ≤ c.bufSize.bytes <;> by_cases h2 : arg.toNat ≤ 255 <;> simp [h1, h2]
  | _ => rfl

/-- The check answers OK exactly for a well-formed operation that meets READ_BYTE's direction rule. -/
theorem Block.check_ok_iff (b : Block) (i : Instr) :
    b.check i = .ok ↔ i.wf b.cfg = true ∧ ¬ (needsRelease i = true ∧ b.out.dataOe = true) := by
  unfold Block.check Instr.wf
  rw [roleAccepts_eq_roleOk, argInRange_eq_argOk]
  cases i.roleOk b.cfg.role <;> cases i.argOk b.cfg <;> cases needsRelease i <;>
    cases b.out.dataOe <;> simp

/-- A check that does not answer OK answers one of the three refusals it can. -/
theorem Block.check_cases (b : Block) (i : Instr) :
    b.check i = .ok ∨ b.check i = .errRole ∨ b.check i = .errArg ∨ b.check i = .errDir := by
  unfold Block.check
  split
  · simp
  · split
    · simp
    · split <;> simp

/-- What submission of a command can do (30_encoding.md R124): drop it, refuse it or start it. -/
theorem Block.submit_cases (b : Block) (i : Instr) (prog : List Line) :
    (b.busy = true ∧ b.submit i prog = b.raise .cmdIgnored) ∨
    (b.busy = false ∧ b.check i ≠ .ok ∧ b.submit i prog = b.refuse i.opcode (b.check i)) ∨
    (b.busy = false ∧ b.check i = .ok ∧ b.submit i prog = b.accept i prog) := by
  unfold Block.submit
  cases hb : b.busy with
  | true => simp
  | false => cases hc : b.check i <;> simp

@[simp] theorem Block.busy_raise (b : Block) (e : EventBit) : (b.raise e).busy = b.busy := rfl
@[simp] theorem Block.busy_goto (b : Block) (rest : List Line) : (b.goto rest).busy = true := rfl
@[simp] theorem Block.busy_refuse (b : Block) (op : BitVec 5) (c : ResultCode) :
    (b.refuse op c).busy = b.busy := rfl
@[simp] theorem Block.busy_accept (b : Block) (i : Instr) (prog : List Line) :
    (b.accept i prog).busy = true := rfl
@[simp] theorem Block.busy_softReset (b : Block) : b.softReset.busy = false := rfl
@[simp] theorem Block.busy_hardReset (b : Block) : b.hardReset.busy = false := rfl

/-- Passing over delays of no ticks drops lines and adds none. -/
theorem Block.mem_of_mem_dropZero (b : Block) {l : Line} {ls : List Line} (h : l ∈ b.dropZero ls) :
    l ∈ ls := by
  induction ls with
  | nil => simp [Block.dropZero] at h
  | cons x xs ih =>
    cases x with
    | delay d =>
      unfold Block.dropZero at h
      split at h
      · exact List.mem_cons_of_mem _ (ih h)
      · exact h
    | _ => simpa [Block.dropZero] using h

/-- Passing over delays looks at nothing but the five tick registers and ARGV. -/
theorem Block.dropZero_congr {b b' : Block} (h : ∀ d, b'.ticks d = b.ticks d) (ls : List Line) :
    b'.dropZero ls = b.dropZero ls := by
  induction ls with
  | nil => rfl
  | cons x xs ih =>
    cases x with
    | delay d => simp only [Block.dropZero, h, ih]
    | _ => rfl

end Sys2Proof.Machine
end

