-- ==== Sys2Proof/Laws/Memory.lean ====
section
/-! SUPPORT. The laws of the frame buffer: reading after writing, other bytes untouched, and the canonical
form kept by every memory operation. -/

namespace Sys2Proof.Machine

theorem Memory.find?_writeByte_same (off : Nat) (v : Byte) (m : Memory) :
    (m.writeByte off v).find? off = some v := by
  induction m with
  | nil => simp [Memory.writeByte, Memory.find?]
  | cons c m ih =>
    obtain ⟨a, w⟩ := c
    unfold Memory.writeByte
    split
    · simp [Memory.find?]
    · split
      · simp [Memory.find?]
      · rename_i h1 h2
        have : a ≠ off := fun h => h2 h.symm
        simp [Memory.find?, this, ih]

theorem Memory.find?_writeByte_other {off off' : Nat} (v : Byte) (m : Memory) (h : off' ≠ off) :
    (m.writeByte off v).find? off' = m.find? off' := by
  induction m with
  | nil => simp [Memory.writeByte, Memory.find?, h.symm]
  | cons c m ih =>
    obtain ⟨a, w⟩ := c
    unfold Memory.writeByte
    split
    · simp [Memory.find?, h.symm]
    · split
      · rename_i h1 h2
        subst h2
        simp [Memory.find?, h.symm]
      · simp [Memory.find?, ih]

/-- Reading a byte just written gives the byte. -/
@[simp] theorem Memory.readByte_writeByte_same (m : Memory) (e : Epoch) (off : Nat) (v : Byte) :
    (m.writeByte off v).readByte e off = v := by
  simp [Memory.readByte, Memory.find?_writeByte_same]

/-- A write leaves every other byte alone. -/
theorem Memory.readByte_writeByte_other (m : Memory) (e : Epoch) {off off' : Nat} (v : Byte)
    (h : off' ≠ off) : (m.writeByte off v).readByte e off' = m.readByte e off' := by
  simp [Memory.readByte, Memory.find?_writeByte_other v m h]

theorem Memory.risingFrom_mono {lo lo' : Nat} (h : lo ≤ lo') {m : Memory}
    (hm : Memory.risingFrom lo' m = true) : Memory.risingFrom lo m = true := by
  cases m with
  | nil => rfl
  | cons c m =>
    obtain ⟨a, w⟩ := c
    simp only [Memory.risingFrom, Bool.and_eq_true, decide_eq_true_eq] at hm ⊢
    exact ⟨Nat.le_trans h hm.1, hm.2⟩

theorem Memory.risingFrom_writeByte {lo off : Nat} (v : Byte) {m : Memory} (hlo : lo ≤ off)
    (hm : Memory.risingFrom lo m = true) : Memory.risingFrom lo (m.writeByte off v) = true := by
  induction m generalizing lo with
  | nil => simp [Memory.writeByte, Memory.risingFrom, hlo]
  | cons c m ih =>
    obtain ⟨a, w⟩ := c
    simp only [Memory.risingFrom, Bool.and_eq_true, decide_eq_true_eq] at hm
    unfold Memory.writeByte
    split
    · rename_i h1
      simp only [Memory.risingFrom, Bool.and_eq_true, decide_eq_true_eq]
      exact ⟨hlo, h1, hm.2⟩
    · split
      · rename_i h1 h2
        subst h2
        simp only [Memory.risingFrom, Bool.and_eq_true, decide_eq_true_eq]
        exact ⟨hlo, hm.2⟩
      · rename_i h1 h2
        simp only [Memory.risingFrom, Bool.and_eq_true, decide_eq_true_eq]
        exact ⟨hm.1, ih (by omega) hm.2⟩

/-- Writing a byte keeps the canonical form. -/
theorem Memory.wf_writeByte (off : Nat) (v : Byte) {m : Memory} (hm : m.wf = true) :
    (m.writeByte off v).wf = true :=
  Memory.risingFrom_writeByte v (Nat.zero_le off) hm

/-- Writing n bytes keeps the canonical form. -/
theorem Memory.wf_writeBytes (n off : Nat) (v : Word) {m : Memory} (hm : m.wf = true) :
    (m.writeBytes off v n).wf = true := by
  induction n generalizing off v m with
  | zero => exact hm
  | succ n ih => exact ih _ _ (Memory.wf_writeByte _ _ hm)

/-- Writing inside the buffer keeps every listed byte inside it. -/
theorem Memory.within_writeByte {size off : Nat} (v : Byte) {m : Memory} (h0 : bufOffset 0 ≤ off)
    (h1 : off < bufOffset size) (hm : m.within size = true) :
    (m.writeByte off v).within size = true := by
  induction m with
  | nil => simp [Memory.writeByte, Memory.within, h0, h1]
  | cons c m ih =>
    obtain ⟨a, w⟩ := c
    simp only [Memory.within, List.all_cons, Bool.and_eq_true, decide_eq_true_eq] at hm ih ⊢
    unfold Memory.writeByte
    split
    · simp only [List.all_cons, Bool.and_eq_true, decide_eq_true_eq]
      exact ⟨⟨h0, h1⟩, hm⟩
    · split
      · simp only [List.all_cons, Bool.and_eq_true, decide_eq_true_eq]
        exact ⟨⟨h0, h1⟩, hm.2⟩
      · simp only [List.all_cons, Bool.and_eq_true, decide_eq_true_eq]
        exact ⟨hm.1, ih hm.2⟩

theorem Memory.within_writeBytes {size : Nat} (n off : Nat) (v : Word) {m : Memory}
    (h0 : bufOffset 0 ≤ off) (h1 : off + n ≤ bufOffset size) (hm : m.within size = true) :
    (m.writeBytes off v n).within size = true := by
  induction n generalizing off v m with
  | zero => exact hm
  | succ n ih =>
    exact ih _ _ (by omega) (by omega) (Memory.within_writeByte _ h0 (by omega) hm)

/-- Bytes outside the n written ones read as before. -/
theorem Memory.readByte_writeBytes_outside (n off : Nat) (v : Word) (m : Memory) (e : Epoch) (a : Nat)
    (h : a < off ∨ off + n ≤ a) : (m.writeBytes off v n).readByte e a = m.readByte e a := by
  induction n generalizing off v m with
  | zero => rfl
  | succ n ih =>
    unfold Memory.writeBytes
    rw [ih _ _ _ (by omega)]
    exact Memory.readByte_writeByte_other _ _ _ (by omega)

end Sys2Proof.Machine
end

