-- ==== Sys2Proof/Laws/Run.lean ====
section
/-! SUPPORT. What a step, an event and a run of an operation can do, said once: the step's cases, the one
operation every meaning is, the run of a schedule, and an induction principle for it. -/

namespace Sys2Proof.Machine

/-! ## Meanings -/

/-- Every meaning is the shared operation over its own pseudocode. -/
theorem exec_eq_operate (i : Instr) (s : State) : exec i s = s.operate i (fun c => programOf c i) := by
  cases i <;> rfl

/-- What running an operation can do. -/
theorem State.operate_cases (s : State) (i : Instr) (prog : Config → List Line) :
    (s.get s.port = none ∧ s.operate i prog = .fault .absentBlock) ∨
    ∃ b, s.get s.port = some b ∧
      ((b.rstN = false ∧ s.operate i prog = .next s) ∨
       (b.rstN = true ∧ b.busy = true ∧
          s.operate i prog = .next (s.set s.port (b.raise .cmdIgnored)).note) ∨
       (b.rstN = true ∧ b.busy = false ∧
          let s1 := (s.set s.port (b.submit i (prog b.cfg))).note
          s.operate i prog = .next (State.runWhile s.port s1.env s1))) := by
  unfold State.operate
  cases hg : s.get s.port with
  | none => simp
  | some b =>
    refine Or.inr ⟨b, rfl, ?_⟩
    cases hr : b.rstN <;> cases hb : b.busy <;> simp [Block.submit, hb, hr]

/-- An operation never refuses, and faults only where its block is absent. -/
theorem exec_next_of_get {s : State} {b : Block} (i : Instr) (h : s.get s.port = some b) :
    ∃ t, exec i s = .next t := by
  rw [exec_eq_operate]
  rcases s.operate_cases i (fun c => programOf c i) with ⟨h0, -⟩ | ⟨b', -, ⟨-, h1⟩ | ⟨-, -, h1⟩ | ⟨-, -, h1⟩⟩
  · simp [h] at h0
  all_goals exact ⟨_, h1⟩

/-! ## Events -/

theorem State.apply_of_get {s : State} {e : Event} {b : Block} (h : s.get e.side = some b) :
    s.apply e = { (s.set e.side (s.act b e)).note with
      pace := s.paceAfter e (s.act b e)
      draws := s.drawsAfter e
      replies := s.replies ++ e.replies b } := by
  simp [State.apply, h]

theorem State.apply_of_absent {s : State} {e : Event} (h : s.get e.side = none) : s.apply e = s := by
  simp [State.apply, h]

/-- What an event makes of its own block. -/
theorem State.get_apply_same {s : State} {e : Event} {b : Block} (h : s.get e.side = some b) :
    (s.apply e).get e.side = some (s.act b e) := by
  rw [State.apply_of_get h, State.get_withRecord, State.note_get, State.get_set_same _ h]

/-- An event of one side leaves the other block as it was. -/
theorem State.get_apply_ne {s : State} {e : Event} {side : Side} (h : side ≠ e.side) :
    (s.apply e).get side = s.get side := by
  cases hg : s.get e.side with
  | none => rw [State.apply_of_absent hg]
  | some b =>
    rw [State.apply_of_get hg, State.get_withRecord, State.note_get, State.get_set_ne s _ h]

@[simp] theorem State.apply_env (s : State) (e : Event) : (s.apply e).env = s.env := by
  cases hg : s.get e.side with
  | none => rw [State.apply_of_absent hg]
  | some b => rw [State.apply_of_get hg]; simp

@[simp] theorem State.apply_port (s : State) (e : Event) : (s.apply e).port = s.port := by
  cases hg : s.get e.side with
  | none => rw [State.apply_of_absent hg]
  | some b => rw [State.apply_of_get hg]; simp

/-- A block stays there, and an absent one absent. -/
@[simp] theorem State.isSome_get_apply (s : State) (e : Event) (side : Side) :
    ((s.apply e).get side).isSome = (s.get side).isSome := by
  by_cases h : side = e.side
  · subst h
    cases hg : s.get e.side with
    | none => rw [State.apply_of_absent hg, hg]
    | some b => rw [State.get_apply_same hg]; rfl
  · rw [State.get_apply_ne h]

/-! ## The run of a schedule -/

theorem State.runWhile_nil (side : Side) (s : State) :
    State.runWhile side [] s = { s with env := [] } := rfl

theorem State.runWhile_stop {side : Side} {s : State} (es : List Event) (h : s.running side = false) :
    State.runWhile side es s = { s with env := es } := by
  cases es with
  | nil => rfl
  | cons e es => simp [State.runWhile, h]

theorem State.runWhile_cons {side : Side} {s : State} {e : Event} (es : List Event)
    (h : s.running side = true) (hp : s.present e = true) :
    State.runWhile side (e :: es) s = State.runWhile side es (s.apply e) := by
  simp [State.runWhile, h, hp]

/-- A property that no change of env disturbs, and that every event taken while the block runs keeps, holds
when the run ends. -/
theorem State.runWhile_induct {P : State → Prop} (side : Side)
    (henv : ∀ (s : State) (es : List Event), P s → P { s with env := es }) :
    ∀ (es : List Event) (s : State), P s →
      (∀ (s : State) (e : Event), e ∈ es → P s → s.running side = true → s.present e = true →
        P (s.apply e)) →
      P (State.runWhile side es s) := by
  intro es
  induction es with
  | nil => intro s hs _; exact henv s [] hs
  | cons e es ih =>
    intro s hs hstep
    unfold State.runWhile
    split
    · rename_i h
      simp only [Bool.and_eq_true] at h
      exact ih _ (hstep s e List.mem_cons_self hs h.1 h.2)
        fun s' e' he' => hstep s' e' (List.mem_cons_of_mem _ he')
    · exact henv s _ hs

/-- Clock steps of one block alone, while it runs: the block reached, and the pin levels not used. -/
def Block.runPins : List Pins → Block → Block × List Pins
  | [], b => (b, [])
  | p :: ps, b => if b.busy then Block.runPins ps (b.clkStep p) else (b, p :: ps)

theorem Block.runPins_idle {b : Block} (ps : List Pins) (h : b.busy = false) :
    b.runPins ps = (b, ps) := by
  cases ps <;> simp [Block.runPins, h]

theorem Block.runPins_busy {b : Block} (p : Pins) (ps : List Pins) (h : b.busy = true) :
    b.runPins (p :: ps) = (b.clkStep p).runPins ps := by
  simp [Block.runPins, h]

/-- While both blocks drive DATA every sample is a draw (20_memory.md R104). -/
theorem State.drawn_of_contending {s : State} (side : Side) (h : s.contending = true) : s.drawn side = true := by
  unfold State.contending at h
  unfold State.drawn State.loose
  cases hf : s.far <;> simp_all

/-- A block alone draws no bit. -/
theorem State.slip_alone (s : State) (side : Side) (h : s.far = none) : s.slip side = none := by
  simp [State.slip, State.drawn, State.loose, State.slips, State.pair?, h]

/-- A clock step of a block alone is the block's own step. -/
theorem State.apply_clk_alone (s : State) (p : Pins) (h : s.far = none) :
    s.apply (.clk .near p) = { s with near := s.near.clkStep p } := by
  obtain ⟨near, far, contention, pace, draws, env, port, replies⟩ := s
  subst h
  simp [State.apply, State.get, Event.side, State.set, State.act, State.pinsAt, Side.other,
    State.note, State.contending, Event.replies, State.slip_alone, State.paceAfter, State.drawsAfter,
    State.drawn, State.loose, State.slips, State.pair?]

/-- The run of a block alone over its own clock steps is the run of the block. -/
theorem State.runWhile_clks_alone (ps : List Pins) (es : List Event) :
    ∀ s : State, s.far = none →
      State.runWhile .near (clks .near ps ++ es) s =
        State.runWhile .near (clks .near (s.near.runPins ps).2 ++ es)
          { s with near := (s.near.runPins ps).1 } := by
  induction ps with
  | nil => intro s _; rfl
  | cons p ps ih =>
    intro s h
    cases hb : s.near.busy with
    | false => rw [Block.runPins_idle _ hb]
    | true =>
      rw [Block.runPins_busy _ _ hb]
      have hrun : s.running .near = true := hb
      rw [show clks .near (p :: ps) ++ es = .clk .near p :: (clks .near ps ++ es) from rfl,
        State.runWhile_cons _ hrun rfl, State.apply_clk_alone s p h]
      exact ih { s with near := s.near.clkStep p } h

/-! ## A step of the clock -/

/-- Out of reset a step begins a clk cycle or is the next line's of the cycle under way. -/
theorem Block.clkStep_begins {b : Block} (p : Pins) (slip : Option Level) (h : b.rstN = true)
    (hm : b.seq.mid = false) :
    b.clkStep p slip = (((b.syncShift p slip).edgeEngine).seqStep).latchPrev := by
  simp [Block.clkStep, h, hm]

theorem Block.clkStep_mid {b : Block} (p : Pins) (slip : Option Level) (h : b.rstN = true)
    (hm : b.seq.mid = true) : b.clkStep p slip = (b.redraw slip).seqStep := by
  simp [Block.clkStep, h, hm]

theorem Block.clkStep_reset {b : Block} (p : Pins) (slip : Option Level) (h : b.rstN = false) :
    b.clkStep p slip = b.hardReset := by
  simp [Block.clkStep, h]

/-! ## A sequencer step -/

theorem Block.lineStep_idle {b : Block} (h : b.seq.prog = .idle) : b.lineStep = b := by
  simp [Block.lineStep, h]
theorem Block.lineStep_nil {b : Block} (h : b.seq.prog = .run []) : b.lineStep = b.finish .ok := by
  simp [Block.lineStep, h]
theorem Block.lineStep_cons {b : Block} {l : Line} {rest : List Line} (h : b.seq.prog = .run (l :: rest)) :
    b.lineStep = b.runLine l rest := by
  simp [Block.lineStep, h]

/-- What a sequencer step keeps: what the final finish, the next line and the end-of-cycle mark keep. -/
theorem Block.seqStep_induct {P : Block → Prop} {b : Block} (h : P b)
    (hfin : P b → P (b.finish .ok))
    (hline : ∀ (l : Line) (rest : List Line), b.seq.prog = .run (l :: rest) → P b → P (b.runLine l rest))
    (hmid : ∀ (x : Block) (m : Bool), P x → P { x with seq.mid := m }) : P b.seqStep := by
  refine hmid _ _ ?_
  unfold Block.lineStep
  split
  · exact h
  · exact hfin h
  · rename_i l rest hp
    exact hline l rest hp h

/-! ## The step -/

/-- What a step can do. -/
theorem step_cases (s : State) :
    (s.env = [] ∧ step s = .next s) ∨
    ∃ e es, s.env = e :: es ∧
      ((s.get e.side = none ∧ step s = .fault .absentBlock) ∨
       ∃ b, s.get e.side = some b ∧
        ((∃ i, e.instr? = some i ∧ step s = exec i (s.atPort e es b)) ∨
         (e.instr? = none ∧ step s = .next ({ s with env := es }.apply e)))) := by
  cases he : s.env with
  | nil => exact .inl ⟨rfl, by simp [step, he]⟩
  | cons e es =>
    refine .inr ⟨e, es, rfl, ?_⟩
    cases hg : s.get e.side with
    | none => exact .inl ⟨rfl, by simp [step, he, hg]⟩
    | some b =>
      refine .inr ⟨b, rfl, ?_⟩
      cases hi : e.instr? with
      | none => exact .inr ⟨rfl, by simp [step, he, hg, hi]⟩
      | some i => exact .inl ⟨i, rfl, by simp [step, he, hg, hi]⟩

end Sys2Proof.Machine
end

