-- ==== Sys2Proof/Laws/Cycle.lean ====
section
/-! SUPPORT. What one line, one clock step and one host access leave unchanged or keep, said once: the
settings, the position the sequencer goes to, and the canonical form of the buffer. -/

namespace Sys2Proof.Machine

/-! ## The sequencer's position -/

theorem Block.holdCycle_prog (b : Block) (stay rest : List Line) :
    (b.holdCycle stay rest).seq.prog = .run stay ∨
      ∃ b1 : Block, (b.holdCycle stay rest).seq.prog = .run (b1.dropZero rest) := by
  unfold Block.holdCycle
  split
  · exact .inl rfl
  · exact .inr ⟨_, rfl⟩

theorem Block.delayCycle_prog (b : Block) (t : Half) (stay rest : List Line) :
    (b.delayCycle t stay rest).seq.prog = .run stay ∨
      ∃ b1 : Block, (b.delayCycle t stay rest).seq.prog = .run (b1.dropZero rest) := by
  unfold Block.delayCycle
  split
  · exact .inl rfl
  · split
    · exact .inl rfl
    · exact .inr ⟨_, rfl⟩

theorem Block.holdCycle_buf (b : Block) (stay rest : List Line) :
    (b.holdCycle stay rest).buf = b.buf := by
  unfold Block.holdCycle; split <;> rfl

theorem Block.delayCycle_buf (b : Block) (t : Half) (stay rest : List Line) :
    (b.delayCycle t stay rest).buf = b.buf := by
  unfold Block.delayCycle
  split
  · rfl
  · split <;> rfl

/-- Where the sequencer goes from line `l` before `rest`: it stays at the line, it goes on to the rest, it
starts one of READ_RESP's two endings, or it is done. -/
theorem Block.runLine_prog (b : Block) (l : Line) (rest : List Line) (h : b.seq.prog = .run (l :: rest)) :
    (b.runLine l rest).seq.prog = .run (l :: rest) ∨
    (∃ b1 : Block, (b.runLine l rest).seq.prog = .run (b1.dropZero rest)) ∨
    (l = .testOverrun ∧ ∃ b1 : Block, ∃ tail, (b.runLine l rest).seq.prog = .run (b1.dropZero tail) ∧
      (tail = overrunTail ∨ tail = readRespTail b.seq.locs.len.toNat)) ∨
    (b.runLine l rest).seq.prog = .idle := by
  cases l with
  | delay d =>
    rcases b.delayCycle_prog (b.ticks d) (.delay d :: rest) rest with h1 | h1
    · exact .inl h1
    · exact .inr (.inl h1)
  | hold =>
    rcases b.holdCycle_prog (.hold :: rest) rest with h1 | h1
    · exact .inl h1
    · exact .inr (.inl h1)
  | awaitHs a =>
    simp only [Block.runLine]
    split
    · exact .inr (.inl ⟨_, rfl⟩)
    · exact .inl h
  | awaitByte =>
    simp only [Block.runLine]
    split
    · exact .inr (.inl ⟨_, rfl⟩)
    · exact .inl h
  | waitFinish k =>
    simp only [Block.runLine]
    split
    · exact .inr (.inr (.inr (by simp)))
    · exact .inl h
  | testOverrun =>
    refine .inr (.inr (.inl ⟨rfl, b, ?_⟩))
    simp only [Block.runLine]
    split
    · exact ⟨overrunTail, rfl, .inl rfl⟩
    · exact ⟨readRespTail b.seq.locs.len.toNat, rfl, .inr rfl⟩
  | driveOeFinish v => exact .inr (.inr (.inr (by simp [Block.runLine])))
  | driveHsFinish => exact .inr (.inr (.inr (by simp [Block.runLine])))
  | finish c => exact .inr (.inr (.inr (by simp [Block.runLine])))
  | finishMatchB => exact .inr (.inr (.inr (by simp [Block.runLine])))
  | finishMatchData => exact .inr (.inr (.inr (by simp [Block.runLine])))
  | _ => exact .inr (.inl ⟨_, rfl⟩)

/-! ## Settings -/

/-- The build parameters, the reset pin, IRQ_EN and the timing registers: no line and no clk cycle out of reset
changes them (10_state.md R41). -/
def Block.settings (b : Block) : Config × Level × BitVec 5 × Half × Half × Half × Half × Half :=
  (b.cfg, b.rstN, b.regs.irqEn, b.regs.tickdiv, b.regs.clkdiv, b.regs.byteSettle, b.regs.prepoll,
    b.regs.extSettle)

@[simp] theorem Block.settings_goto (b : Block) (rest : List Line) :
    (b.goto rest).settings = b.settings := rfl
@[simp] theorem Block.settings_raise (b : Block) (e : EventBit) : (b.raise e).settings = b.settings := rfl
@[simp] theorem Block.settings_finish (b : Block) (c : ResultCode) :
    (b.finish c).settings = b.settings := by
  simp [Block.settings]
@[simp] theorem Block.settings_latchPrev (b : Block) : b.latchPrev.settings = b.settings := rfl
@[simp] theorem Block.settings_redraw (b : Block) (slip : Option Level) :
    (b.redraw slip).settings = b.settings := rfl
@[simp] theorem Block.settings_syncShift (b : Block) (p : Pins) (slip : Option Level) :
    (b.syncShift p slip).settings = b.settings := rfl

@[simp] theorem Block.settings_edgeEngine (b : Block) : b.edgeEngine.settings = b.settings := by
  have hf : b.engineFall.settings = b.settings := by
    unfold Block.engineFall; split <;> rfl
  have hr : b.engineRise.settings = b.settings := by
    unfold Block.engineRise
    simp only
    split <;> split <;> rfl
  unfold Block.edgeEngine
  split
  · rfl
  · simp only
    split
    · exact hf
    · split
      · exact hr
      · rfl

theorem Block.settings_holdCycle (b : Block) (stay rest : List Line) :
    (b.holdCycle stay rest).settings = b.settings := by
  unfold Block.holdCycle; split <;> rfl

theorem Block.settings_delayCycle (b : Block) (t : Half) (stay rest : List Line) :
    (b.delayCycle t stay rest).settings = b.settings := by
  unfold Block.delayCycle
  split
  · rfl
  · split <;> rfl

@[simp] theorem Block.settings_runLine (b : Block) (l : Line) (rest : List Line) :
    (b.runLine l rest).settings = b.settings := by
  cases l with
  | delay d => exact b.settings_delayCycle _ _ _
  | hold => exact b.settings_holdCycle _ _
  | awaitHs a => simp only [Block.runLine]; split <;> rfl
  | awaitByte => simp only [Block.runLine]; split <;> rfl
  | waitFinish k => simp only [Block.runLine]; split <;> simp
  | testOverrun => simp only [Block.runLine]; split <;> rfl
  | loadSh v => cases v <;> rfl
  | armSh v => cases v <;> rfl
  | clearAcc a => cases a <;> rfl
  | addBuf a j => cases a <;> rfl
  | xportSck => simp only [Block.runLine, Block.settings_goto]; split <;> rfl
  | driveOeFinish v => simp only [Block.runLine, Block.settings_finish]; rfl
  | driveHsFinish => simp only [Block.runLine, Block.settings_finish]; rfl
  | finish c => simp [Block.runLine]
  | finishMatchB => simp [Block.runLine]
  | finishMatchData => simp [Block.runLine]
  | _ => rfl

@[simp] theorem Block.settings_seqStep (b : Block) : b.seqStep.settings = b.settings :=
  Block.seqStep_induct (P := fun x => x.settings = b.settings) rfl (fun _ => by simp)
    (fun _ _ _ _ => by simp) (fun _ _ h => h)

/-- A step of the clock out of reset keeps the settings. -/
theorem Block.settings_clkStep {b : Block} (p : Pins) (slip : Option Level) (h : b.rstN = true) :
    (b.clkStep p slip).settings = b.settings := by
  cases hm : b.seq.mid with
  | true => simp [Block.clkStep_mid p slip h hm]
  | false => simp [Block.clkStep_begins p slip h hm]

/-! ## The synchronisers and the bit a sample takes -/

/-- No line touches the synchronisers. -/
@[simp] theorem Block.sync_runLine (b : Block) (l : Line) (rest : List Line) :
    (b.runLine l rest).sync = b.sync := by
  cases l with
  | delay d => simp only [Block.runLine]; unfold Block.delayCycle; split <;> [skip; split] <;> rfl
  | hold => simp only [Block.runLine]; unfold Block.holdCycle; split <;> rfl
  | loadSh v => cases v <;> rfl
  | armSh v => cases v <;> rfl
  | clearAcc a => cases a <;> rfl
  | addBuf a j => cases a <;> rfl
  | awaitHs a => simp only [Block.runLine]; split <;> rfl
  | awaitByte => simp only [Block.runLine]; split <;> rfl
  | testOverrun => simp only [Block.runLine]; split <;> rfl
  | waitFinish k => simp only [Block.runLine]; split <;> simp
  | xportSck => simp only [Block.runLine]; split <;> rfl
  | _ => first | rfl | simp [Block.runLine]

@[simp] theorem Block.sync_seqStep (b : Block) : b.seqStep.sync = b.sync :=
  Block.seqStep_induct (P := fun x => x.sync = b.sync) rfl (fun _ => by simp)
    (fun _ _ _ _ => by simp) (fun _ _ h => h)

/-- The edge engine leaves the sequencer, the bit and the data chain alone. -/
theorem Block.edgeEngine_keeps (b : Block) : b.edgeEngine.seq = b.seq ∧
    b.edgeEngine.sync.bit = b.sync.bit ∧ b.edgeEngine.sync.data = b.sync.data := by
  have hf : b.engineFall.seq = b.seq ∧ b.engineFall.sync = b.sync := by
    unfold Block.engineFall; split <;> exact ⟨rfl, rfl⟩
  have hr : b.engineRise.seq = b.seq ∧ b.engineRise.sync = b.sync := by
    unfold Block.engineRise; simp only; split <;> split <;> exact ⟨rfl, rfl⟩
  unfold Block.edgeEngine
  split
  · exact ⟨rfl, rfl, rfl⟩
  · simp only; split
    · simp [hf]
    · split <;> simp [hr]

theorem Block.seqStep_takeBit {b : Block} {rest : List Line} (h : b.seq.prog = .run (.takeBit .rd :: rest)) :
    b.seqStep.seq.locs.d = b.sync.bit := by
  simp [Block.seqStep, Block.lineStep, h, Block.runLine, Block.bitTaken, Block.withLocs, Block.countHalf, Block.goto]

/-- The bit that a sample of a step of the clock takes: the draw if there is one, else the last stage of data_i at
the start of the clk cycle; and XferI's d is that bit. -/
theorem Block.clkStep_bit {b : Block} (p : Pins) (slip : Option Level) (h : b.rstN = true) :
    (b.clkStep p slip).sync.bit =
      slip.getD (if b.seq.mid then b.sync.bit else lastStage (b.clkStep p slip).sync.data) ∧
    ∀ rest, b.seq.prog = .run (.takeBit .rd :: rest) →
      (b.clkStep p slip).seq.locs.d = (b.clkStep p slip).sync.bit := by
  cases hm : b.seq.mid with
  | true =>
    rw [Block.clkStep_mid p slip h hm, Block.sync_seqStep]
    exact ⟨by simp [Block.redraw], fun rest hp => Block.seqStep_takeBit hp⟩
  | false =>
    rw [Block.clkStep_begins p slip h hm]
    have hk := (b.syncShift p slip).edgeEngine_keeps
    refine ⟨?_, fun rest hp => ?_⟩
    · simp only [Block.latchPrev, Block.sync_seqStep, hk]; simp [Block.syncShift]
    · have hd := Block.seqStep_takeBit (b := (b.syncShift p slip).edgeEngine) (rest := rest) (by rw [hk.1]; exact hp)
      simp only [Block.latchPrev, Block.sync_seqStep, hd]

/-! ## The buffer's canonical form -/

theorem Block.buf_wf_raise {b : Block} (e : EventBit) (h : b.buf.wf = true) :
    (b.raise e).buf.wf = true := h

/-- A line stores at most one byte, and keeps the canonical form. -/
theorem Block.buf_runLine (b : Block) (l : Line) (rest : List Line) :
    (b.runLine l rest).buf = b.buf ∨
      ∃ j, l = .storeB j ∧ (b.runLine l rest).buf = b.buf.writeByte (bufOffset j) b.seq.locs.b := by
  cases l with
  | storeB j => exact .inr ⟨j, rfl, rfl⟩
  | delay d => exact .inl (b.delayCycle_buf _ _ _)
  | hold => exact .inl (b.holdCycle_buf _ _)
  | awaitHs a => refine .inl ?_; simp only [Block.runLine]; split <;> rfl
  | awaitByte => refine .inl ?_; simp only [Block.runLine]; split <;> rfl
  | waitFinish k => refine .inl ?_; simp only [Block.runLine]; split <;> simp
  | testOverrun => refine .inl ?_; simp only [Block.runLine]; split <;> rfl
  | loadSh v => refine .inl ?_; cases v <;> rfl
  | armSh v => refine .inl ?_; cases v <;> rfl
  | xportSck => refine .inl ?_; simp only [Block.runLine, Block.goto_buf]; split <;> rfl
  | driveOeFinish v => refine .inl ?_; simp [Block.runLine]
  | driveHsFinish => refine .inl ?_; simp [Block.runLine]
  | finish c => refine .inl ?_; simp [Block.runLine]
  | finishMatchB => refine .inl ?_; simp [Block.runLine]
  | finishMatchData => refine .inl ?_; simp [Block.runLine]
  | _ => exact .inl rfl

theorem Block.buf_wf_runLine {b : Block} (l : Line) (rest : List Line) (h : b.buf.wf = true) :
    (b.runLine l rest).buf.wf = true := by
  rcases b.buf_runLine l rest with h1 | ⟨j, -, h1⟩ <;> rw [h1]
  · exact h
  · exact Memory.wf_writeByte _ _ h

theorem Block.buf_wf_seqStep {b : Block} (h : b.buf.wf = true) : b.seqStep.buf.wf = true :=
  Block.seqStep_induct (P := fun x => x.buf.wf = true) h (fun h1 => by simpa using h1)
    (fun l rest _ h1 => Block.buf_wf_runLine l rest h1) (fun _ _ h1 => h1)

/-- The host's accesses keep the canonical form. -/
theorem Block.buf_wf_writeBytes {b : Block} (off n : Nat) (v : Word) (h : b.buf.wf = true) :
    ({ b with buf := b.buf.writeBytes off v n } : Block).buf.wf = true :=
  Memory.wf_writeBytes n off v h

/-- Reset memory has the canonical form: it lists nothing. -/
theorem State.reset_buf_wf : State.reset.near.buf.wf = true ∧
    ∀ f, State.reset.far = some f → f.buf.wf = true := by
  refine ⟨rfl, fun f h => ?_⟩
  cases h; rfl

end Sys2Proof.Machine
end

