-- ==== Sys2Proof/Laws/PerInstr.lean ====
section
/-! SUPPORT. Facts about every operation as syntax, one lemma per constructor: each field of the encoded word
is where 30_encoding.md R120 puts it, and the reserved bits are 0. -/

namespace Sys2Proof.Laws

/-- The bits of an assembled word, by place (30_encoding.md R120). -/
theorem word_bit (arg : Half) (lvl : Bool) (op : BitVec 5) (k : Nat) :
    (arg ++ 0#7 ++ BitVec.ofBool lvl ++ 0#3 ++ op).getLsbD k =
      if k < 5 then op.getLsbD k
      else if k < 8 then false
      else if k < 9 then lvl
      else if k < 16 then false
      else arg.getLsbD (k - 16) := by
  simp only [BitVec.getLsbD_append, BitVec.getLsbD_zero, BitVec.getLsbD_ofBool]
  by_cases h1 : k < 5
  · simp [h1]
  · by_cases h2 : k < 8
    · simp [h1, h2, show k - 5 < 3 by omega]
    · by_cases h3 : k < 9
      · have : k = 8 := by omega
        subst this; simp
      · by_cases h4 : k < 16
        · simp [h1, h2, h3, h4, show ¬ k - 5 < 3 by omega, show ¬ k - 5 - 3 < 1 by omega,
            show k - 5 - 3 - 1 < 7 by omega]
        · simp [h1, h2, h3, h4, show ¬ k - 5 < 3 by omega, show ¬ k - 5 - 3 < 1 by omega,
            show ¬ k - 5 - 3 - 1 < 7 by omega, show k - 5 - 3 - 1 - 7 = k - 16 by omega]

theorem opField_encode (i : Instr) : opField (encode i) = i.opcode := by
  apply BitVec.eq_of_getLsbD_eq
  intro k hk
  rw [opField, BitVec.getLsbD_extractLsb', show (encode i).getLsbD (0 + k) = _ from word_bit _ _ _ _]
  simp [hk]

theorem lvlField_encode (i : Instr) : lvlField (encode i) = i.lvl := by
  rw [lvlField, show (encode i).getLsbD 8 = _ from word_bit _ _ _ _]
  simp

theorem argField_encode (i : Instr) : argField (encode i) = i.arg := by
  apply BitVec.eq_of_getLsbD_eq
  intro k hk
  rw [argField, BitVec.getLsbD_extractLsb', show (encode i).getLsbD (16 + k) = _ from word_bit _ _ _ _]
  simp [hk, show ¬ 16 + k < 5 by omega, show ¬ 16 + k < 8 by omega, show ¬ 16 + k < 9 by omega]

theorem reservedLow_encode (i : Instr) : (encode i).extractLsb' 5 3 = 0#3 := by
  apply BitVec.eq_of_getLsbD_eq
  intro k hk
  rw [BitVec.getLsbD_extractLsb', show (encode i).getLsbD (5 + k) = _ from word_bit _ _ _ _]
  simp [show 5 + k < 8 by omega]

theorem reservedHigh_encode (i : Instr) : (encode i).extractLsb' 9 7 = 0#7 := by
  apply BitVec.eq_of_getLsbD_eq
  intro k hk
  rw [BitVec.getLsbD_extractLsb', show (encode i).getLsbD (9 + k) = _ from word_bit _ _ _ _]
  simp [show ¬ 9 + k < 5 by omega, show ¬ 9 + k < 8 by omega, show ¬ 9 + k < 9 by omega,
    show 9 + k < 16 by omega]

namespace EncodeFields

/-- The encoded word's fields. -/
def Statement (i : Instr) : Prop :=
  opField (encode i) = i.opcode ∧ lvlField (encode i) = i.lvl ∧ argField (encode i) = i.arg ∧
    (encode i).extractLsb' 5 3 = 0#3 ∧ (encode i).extractLsb' 9 7 = 0#7

theorem of_fields (i : Instr) : Statement i :=
  ⟨opField_encode i, lvlField_encode i, argField_encode i, reservedLow_encode i, reservedHigh_encode i⟩

theorem nop (arg : Half) (lvl : Bool) : Statement (.nop arg lvl) := of_fields _
theorem writeByte (arg : Half) (lvl : Bool) : Statement (.writeByte arg lvl) := of_fields _
theorem readByte (arg : Half) (lvl : Bool) : Statement (.readByte arg lvl) := of_fields _
theorem waitRise (arg : Half) (lvl : Bool) : Statement (.waitRise arg lvl) := of_fields _
theorem waitFall (arg : Half) (lvl : Bool) : Statement (.waitFall arg lvl) := of_fields _
theorem waitHigh (arg : Half) (lvl : Bool) : Statement (.waitHigh arg lvl) := of_fields _
theorem waitLow (arg : Half) (lvl : Bool) : Statement (.waitLow arg lvl) := of_fields _
theorem hsDrive (arg : Half) (lvl : Bool) : Statement (.hsDrive arg lvl) := of_fields _
theorem dataAcquire (arg : Half) (lvl : Bool) : Statement (.dataAcquire arg lvl) := of_fields _
theorem dataRelease (arg : Half) (lvl : Bool) : Statement (.dataRelease arg lvl) := of_fields _
theorem delay (arg : Half) (lvl : Bool) : Statement (.delay arg lvl) := of_fields _
theorem xportReset (arg : Half) (lvl : Bool) : Statement (.xportReset arg lvl) := of_fields _
theorem cksumCompute (arg : Half) (lvl : Bool) : Statement (.cksumCompute arg lvl) := of_fields _
theorem sendCmd (arg : Half) (lvl : Bool) : Statement (.sendCmd arg lvl) := of_fields _
theorem readResp (arg : Half) (lvl : Bool) : Statement (.readResp arg lvl) := of_fields _
theorem extPacket (arg : Half) (lvl : Bool) : Statement (.extPacket arg lvl) := of_fields _
theorem rspReadCksum (arg : Half) (lvl : Bool) : Statement (.rspReadCksum arg lvl) := of_fields _
theorem rspWriteCksum (arg : Half) (lvl : Bool) : Statement (.rspWriteCksum arg lvl) := of_fields _

end EncodeFields

end Sys2Proof.Laws
end

