-- ==== Sys2Proof/Machine/HostProgram.lean ====
section
/-! DEFINITION. The host's side of the block: assembler mnemonics (30_encoding.md R128), host-program forms
(R129) and pseudo-instructions (R130). The host's control flow belongs to the host program, not to the block
(R126), so Machine/Step.lean uses none of this. -/

namespace Sys2Proof.Machine

/-! ## Assembler (R128) -/

/-- The value of one digit character. -/
def digit? (c : Char) : Option Nat :=
  if '0' ≤ c ∧ c ≤ '9' then some (c.toNat - '0'.toNat)
  else if 'a' ≤ c ∧ c ≤ 'f' then some (c.toNat - 'a'.toNat + 10)
  else if 'A' ≤ c ∧ c ≤ 'F' then some (c.toNat - 'A'.toNat + 10)
  else none

/-- The number that digits of a base stand for, on top of what was read so far. -/
def digits? (base : Nat) : Nat → List Char → Option Nat
  | acc, [] => some acc
  | acc, c :: cs =>
    match digit? c with
    | some d => if d < base then digits? base (base * acc + d) cs else none
    | none => none

/-- A number: decimal, or hexadecimal after 0x. -/
def number? : List Char → Option Nat
  | [] => none
  | '0' :: 'x' :: c :: cs => digits? 16 0 (c :: cs)
  | cs => digits? 10 0 cs

/-- An operand that must fit ARG. -/
def arg? (operand : Option Nat) : Option Half :=
  match operand with
  | some n => if n < 2 ^ 16 then some (BitVec.ofNat 16 n) else none
  | none => none

/-- An operation without an operand. -/
def plain? (operand : Option Nat) (f : Half → Bool → Instr) : Option Instr :=
  match operand with
  | none => some (f 0#16 false)
  | some _ => none

/-- The operation a mnemonic in lower case and its operand stand for (R128); fields they do not name are 0. -/
def assemble (mnemonic : String) (operand : Option Nat) : Option Instr :=
  if mnemonic = "nop" then plain? operand .nop
  else if mnemonic = "write_byte" then plain? operand .writeByte
  else if mnemonic = "read_byte" then plain? operand .readByte
  else if mnemonic = "wait_rise" then plain? operand .waitRise
  else if mnemonic = "wait_fall" then plain? operand .waitFall
  else if mnemonic = "wait_high" then plain? operand .waitHigh
  else if mnemonic = "wait_low" then plain? operand .waitLow
  else if mnemonic = "hs_drive" then
    match operand with
    | some 0 => some (.hsDrive 0#16 false)
    | some 1 => some (.hsDrive 0#16 true)
    | some (_ + 2) => none
    | none => none
  else if mnemonic = "data_acquire" then plain? operand .dataAcquire
  else if mnemonic = "data_release" then plain? operand .dataRelease
  else if mnemonic = "delay" then (arg? operand).map (Instr.delay · false)
  else if mnemonic = "xport_reset" then plain? operand .xportReset
  else if mnemonic = "cksum_compute" then (arg? operand).map (Instr.cksumCompute · false)
  else if mnemonic = "send_cmd" then plain? operand .sendCmd
  else if mnemonic = "read_resp" then (arg? operand).map (Instr.readResp · false)
  else if mnemonic = "ext_packet" then plain? operand .extPacket
  else if mnemonic = "rsp_read_cksum" then (arg? operand).map (Instr.rspReadCksum · false)
  else if mnemonic = "rsp_write_cksum" then (arg? operand).map (Instr.rspWriteCksum · false)
  else none

/-! ## Host-program forms (R129) -/

/-- One form of a host program. -/
inductive HostForm where
  /-- mw OFF, V -/
  | mw (off : BitVec 12) (v : Word)
  /-- mwb OFF, V (buffer only) -/
  | mwb (off : BitVec 12) (v : Byte)
  /-- mr OFF -> name -/
  | mr (off : BitVec 12) (name : String)
  /-- poll OFF, MASK, V -/
  | poll (off : BitVec 12) (mask v : Word)
  /-- label: -/
  | label (name : String)
  /-- bne name, V, label -/
  | bne (name : String) (v : Word) (target : String)
  deriving DecidableEq, Repr

/-- cmd <mnemonic> [operand]: mw 0x00C of the assembled word. -/
def HostForm.cmd (i : Instr) : HostForm := .mw 0x00C#12 (encode i)

/-- A host running its program: the form it is at, and the values it has named. -/
structure HostThread where
  pos : Nat
  vars : List (String × Word)
  deriving DecidableEq, Repr

/-- The place of a label in a program; past its end if it has none. -/
def labelPos (target : String) : List HostForm → Nat
  | [] => 0
  | f :: fs => if f = .label target then 0 else labelPos target fs + 1

/-- The access a form makes, if it makes one. -/
def HostForm.access? : HostForm → Option Access
  | .mw off v => some (.write off 4 v)
  | .mwb off v => some (.write off 1 (v.setWidth 32))
  | .mr off _ => some (.read off 4)
  | .poll off _ _ => some (.read off 4)
  | .label _ => none
  | .bne _ _ _ => none

/-- Where the host goes on after a form whose access read `data`. DESIGN CHOICE (log 29), unsafe: a bne on a name
that no mr has named yet branches, as on a value that differs; R129 speaks only of the named value. -/
def HostThread.after (h : HostThread) (prog : List HostForm) (data : Word) : HostForm → HostThread
  | .mw _ _ => { h with pos := h.pos + 1 }
  | .mwb _ _ => { h with pos := h.pos + 1 }
  | .mr _ name => ⟨h.pos + 1, (name, data) :: h.vars⟩
  | .poll _ mask v => if data &&& mask = v then { h with pos := h.pos + 1 } else h
  | .label _ => { h with pos := h.pos + 1 }
  | .bne name v target =>
    if h.vars.lookup name = some v then { h with pos := h.pos + 1 }
    else { h with pos := labelPos target prog }

/-- One step of a host at a block's port: its next form's access is one atomic step of the total order. -/
def State.hostTurn (s : State) (side : Side) (prog : List HostForm) (h : HostThread) :
    State × HostThread :=
  match prog[h.pos]?, s.get side with
  | some f, some b =>
    match f.access? with
    | some a => (s.apply (.host side a), h.after prog (b.reply side a).data f)
    | none => (s, h.after prog 0#32 f)
  | some _, none => (s, h)
  | none, _ => (s, h)

/-! ## Pseudo-instructions (R130) -/

/-- hs_assert -/
def hsAssertOp (c : Config) : Instr := .hsDrive 0#16 c.hsAssert

/-- hs_deassert -/
def hsDeassertOp (c : Config) : Instr := .hsDrive 0#16 (!c.hsAssert)

/-- wait_asserted -/
def waitAssertedOp (c : Config) : Instr :=
  if c.hsAssert then .waitHigh 0#16 false else .waitLow 0#16 false

/-- wait_deasserted -/
def waitDeassertedOp (c : Config) : Instr :=
  if c.hsAssert then .waitLow 0#16 false else .waitHigh 0#16 false

/-- wait_assert_edge -/
def waitAssertEdgeOp (c : Config) : Instr :=
  if c.hsAssert then .waitRise 0#16 false else .waitFall 0#16 false

/-- wait_done: EVENTS.DONE = 1. -/
def waitDone : HostForm := .poll 0x014#12 0x1#32 0x1#32

/-- cmd_resp <cap> -/
def cmdResp (cap : Half) : List HostForm :=
  [.cmd (.sendCmd 0#16 false), waitDone, .cmd (.readResp cap false), waitDone]

end Sys2Proof.Machine
end

