-- ==== Sys2Proof/Tests/Slice0.lean ====
section
/-! SUPPORT. Tests: words written out from 30_encoding.md, ill-formed operations refused, vectors of
95_test_vectors.md, and for every statement with hypotheses a named witness that meets them. -/

namespace Sys2Proof.Tests

open Sys2Proof.Machine

/-! ## Decoding: each word written bit by bit, ARG, 0, LVL, 0, OP (R120, R122) -/

theorem test_decode_nop :
    decode (0b0000000000000000#16 ++ 0b0000000#7 ++ 0b0#1 ++ 0b000#3 ++ 0b00000#5) = .instr (.nop 0#16 false) := by
  decide
theorem test_decode_writeByte :
    decode (0b0000000000000000#16 ++ 0b0000000#7 ++ 0b0#1 ++ 0b000#3 ++ 0b00001#5) = .instr (.writeByte 0#16 false) := by
  decide
theorem test_decode_readByte :
    decode (0b0000000000000000#16 ++ 0b0000000#7 ++ 0b0#1 ++ 0b000#3 ++ 0b00010#5) = .instr (.readByte 0#16 false) := by
  decide
theorem test_decode_waitRise :
    decode (0b0000000000000000#16 ++ 0b0000000#7 ++ 0b0#1 ++ 0b000#3 ++ 0b00011#5) = .instr (.waitRise 0#16 false) := by
  decide
theorem test_decode_waitFall :
    decode (0b0000000000000000#16 ++ 0b0000000#7 ++ 0b0#1 ++ 0b000#3 ++ 0b00100#5) = .instr (.waitFall 0#16 false) := by
  decide
theorem test_decode_waitHigh :
    decode (0b0000000000000000#16 ++ 0b0000000#7 ++ 0b0#1 ++ 0b000#3 ++ 0b00101#5) = .instr (.waitHigh 0#16 false) := by
  decide
theorem test_decode_waitLow :
    decode (0b0000000000000000#16 ++ 0b0000000#7 ++ 0b0#1 ++ 0b000#3 ++ 0b00110#5) = .instr (.waitLow 0#16 false) := by
  decide
theorem test_decode_hsDrive :
    decode (0b0000000000000000#16 ++ 0b0000000#7 ++ 0b1#1 ++ 0b000#3 ++ 0b00111#5) = .instr (.hsDrive 0#16 true) := by
  decide
theorem test_decode_dataAcquire :
    decode (0b0000000000000000#16 ++ 0b0000000#7 ++ 0b0#1 ++ 0b000#3 ++ 0b01000#5) = .instr (.dataAcquire 0#16 false) := by
  decide
theorem test_decode_dataRelease :
    decode (0b0000000000000000#16 ++ 0b0000000#7 ++ 0b0#1 ++ 0b000#3 ++ 0b01001#5) = .instr (.dataRelease 0#16 false) := by
  decide
theorem test_decode_delay :
    decode (0b0000000001100100#16 ++ 0b0000000#7 ++ 0b0#1 ++ 0b000#3 ++ 0b01010#5) = .instr (.delay 100#16 false) := by
  decide
theorem test_decode_xportReset :
    decode (0b0000000000000000#16 ++ 0b0000000#7 ++ 0b1#1 ++ 0b000#3 ++ 0b01011#5) = .instr (.xportReset 0#16 true) := by
  decide
theorem test_decode_cksumCompute :
    decode (0b0000000000000100#16 ++ 0b0000000#7 ++ 0b0#1 ++ 0b000#3 ++ 0b01100#5) = .instr (.cksumCompute 4#16 false) := by
  decide
theorem test_decode_sendCmd :
    decode (0b0000000000000000#16 ++ 0b0000000#7 ++ 0b0#1 ++ 0b000#3 ++ 0b10000#5) = .instr (.sendCmd 0#16 false) := by
  decide
theorem test_decode_readResp :
    decode (0b0000000000001000#16 ++ 0b0000000#7 ++ 0b0#1 ++ 0b000#3 ++ 0b10001#5) = .instr (.readResp 8#16 false) := by
  decide
theorem test_decode_extPacket :
    decode (0b0000000000000000#16 ++ 0b0000000#7 ++ 0b0#1 ++ 0b000#3 ++ 0b10010#5) = .instr (.extPacket 0#16 false) := by
  decide
theorem test_decode_rspReadCksum :
    decode (0b0000000000000100#16 ++ 0b0000000#7 ++ 0b0#1 ++ 0b000#3 ++ 0b11000#5) = .instr (.rspReadCksum 4#16 false) := by
  decide
theorem test_decode_rspWriteCksum :
    decode (0b0000000000000101#16 ++ 0b0000000#7 ++ 0b0#1 ++ 0b000#3 ++ 0b11001#5) = .instr (.rspWriteCksum 5#16 false) := by
  decide

/-- E7, E8 and E9 of 95_test_vectors.md. -/
theorem test_reject_words : decode 0x0000000D#32 = .reject .unassignedOp ∧
    decode 0x000000E0#32 = .reject .reservedLow ∧ decode 0x00000200#32 = .reject .reservedHigh := by
  decide

/-- R128: the assembler's examples, from text. -/
theorem test_assemble : (assemble "read_resp" (number? ['8'])).map encode = some 0x00080011#32 ∧
    (assemble "hs_drive" (number? ['1'])).map encode = some 0x00000107#32 ∧
    (assemble "rsp_write_cksum" (number? ['0', 'x', '5'])).map encode = some 0x00050019#32 := by
  decide

/-- R129: a poll waits at its form until the masked value matches. -/
theorem test_poll_waits :
    let s := State.reset
    let done : State := { s with near := s.near.finish .ok }
    (s.hostTurn .near [waitDone] ⟨0, []⟩).2.pos = 0 ∧ (done.hostTurn .near [waitDone] ⟨0, []⟩).2.pos = 1 := by
  decide

/-! ## Well-formedness: a term that each check refuses -/

theorem test_wf_refuses_role :
    (Instr.sendCmd 0#16 false).wf (.default .responder) = false ∧
    (Instr.rspReadCksum 4#16 false).wf (.default .initiator) = false := by decide
theorem test_wf_refuses_arg :
    (Instr.cksumCompute 257#16 false).wf (.default .initiator) = false ∧
    (Instr.rspReadCksum 257#16 false).wf (.default .responder) = false ∧
    (Instr.rspWriteCksum 256#16 false).wf (.default .responder) = false ∧
    (Instr.rspWriteCksum 257#16 false).wf { Config.default .responder with rev := .revA } = false := by
  decide
theorem test_wf_accepts_at_the_limit :
    (Instr.cksumCompute 256#16 false).wf (.default .initiator) = true ∧
    (Instr.rspWriteCksum 256#16 false).wf { Config.default .responder with rev := .revA } = true := by
  decide
theorem test_wf_refuses_config :
    ({ Config.default .initiator with syncStages := 0 } : Config).wf = false ∧
    ({ Config.default .initiator with syncStages := 16 } : Config).wf = false := by decide

/-! ## Small states -/

/-- The buffer of vectors K20 to K23: 12 34 56 78. -/
def frame : Memory := [(0x400, 0x12#8), (0x401, 0x34#8), (0x402, 0x56#8), (0x403, 0x78#8)]

/-- A block after reset with every delay and divider 0. -/
def quick (c : Config) (buf : Memory) : Block :=
  { Block.reset c true ⟨.near, 0⟩ with
    buf := buf
    regs.tickdiv := 0#16
    regs.clkdiv := 0#16
    regs.byteSettle := 0#16
    regs.prepoll := 0#16
    regs.extSettle := 0#16 }

def ini : Block := quick (.default .initiator) frame
def rsp : Block := quick (.default .responder) frame

/-- A block by itself. -/
def alone (b : Block) (env : List Event) : State := ⟨b, none, false, .rest, 0, env, .near, []⟩

/-- Pins with this handshake level. -/
def hsPin (v : Level) : Pins := ⟨v, true, true⟩

/-- The running block after an operation, tested. -/
def ends (i : Instr) (s : State) (q : Block → Bool) : Bool :=
  match exec i s with
  | .next t =>
    match t.get s.port with
    | some b => q b
    | none => false
  | .fault _ => false
  | .refused _ => false

theorem of_ends {i : Instr} {s : State} {q : Block → Bool} (h : ends i s q = true) :
    ∃ t b, exec i s = .next t ∧ t.get s.port = some b ∧ q b = true := by
  unfold ends at h
  split at h
  · rename_i t ht
    split at h
    · rename_i b hb
      exact ⟨t, b, ht, hb, h⟩
    · exact absurd h (by decide)
  · exact absurd h (by decide)
  · exact absurd h (by decide)

/-- Pins of a peer that answers an initiator at once, with DATA at a fixed level. -/
def peerOfIni (data : Level) : Nat → Block → List Pins
  | 0, _ => []
  | n + 1, b =>
    let p : Pins := ⟨b.out.hsO, data, true⟩
    p :: peerOfIni data n (b.clkStep p)

/-- Pins of a peer that asks a responder for bytes and clocks them, with DATA at a fixed level; `c` counts
the half-periods since the responder armed. -/
def peerOfRsp (data : Level) : Nat → Nat → Block → List Pins
  | 0, _, _ => []
  | n + 1, c, b =>
    let p : Pins := if b.out.hsO then ⟨false, data, true⟩ else ⟨decide (16 ≤ c), data, decide (c % 2 = 1 ∨ 16 ≤ c)⟩
    p :: peerOfRsp data n (if b.out.hsO then 0 else c + 1) (b.clkStep p)

/-- An operation of an initiator alone, against such a peer. -/
def framed (i : Instr) (data : Level) (n : Nat) (b : Block) : State :=
  alone b (clks .near (peerOfIni data n (b.submit i (programOf b.cfg i))))

/-- An operation of a responder alone, against such a peer. -/
def served (i : Instr) (data : Level) (n : Nat) (b : Block) : State :=
  alone b (clks .near (peerOfRsp data n 0 (b.submit i (programOf b.cfg i))))

/-! ## Vectors of 95_test_vectors.md -/

/-- K20. -/
theorem test_cksum_match :
    ends (.cksumCompute 4#16 false) (alone { ini with regs.data := 0x14#8 } (clks .near (List.replicate 11 (hsPin true))))
      (fun b => decide (b.regs.result.word = 0x00040101#32 ∧ b.regs.cksum.word = 0x14#32 ∧ b.regs.events = 0x01#5)) = true := by
  decide
/-- K21. -/
theorem test_cksum_mismatch :
    ends (.cksumCompute 4#16 false) (alone { rsp with regs.data := 0x15#8 } (clks .near (List.replicate 11 (hsPin true))))
      (fun b => decide (b.regs.result.word = 0x00040002#32 ∧ b.regs.cksum.calcA = 0x14#8 ∧ b.regs.events = 0x03#5)) = true := by
  decide
/-- K25 and E6: refused with nothing run. -/
theorem test_refusals :
    (ini.access (.write 0x00C#12 4 0x0101000C#32)).hostRead 0x01C 4 = 0x00000005#32 ∧
    (ini.access (.write 0x00C#12 4 0x0000001F#32)).hostRead 0x01C 4 = 0x00000006#32 ∧
    (ini.access (.write 0x00C#12 4 0x0000001F#32)).regs.statusOp = 0x1F#5 := by decide
/-- H11. -/
theorem test_nop_irq :
    ends (.nop 0#16 false) (alone { ini with regs.irqEn := 0x01#5 } (clks .near [hsPin true]))
      (fun b => decide (b.regs.events = 0x01#5) && b.irq && !(b.access (.write 0x014#12 4 0x01#32)).irq) = true := by
  decide
/-- E4: ARG is don't-care. -/
theorem test_hs_drive :
    ends (.hsDrive 0xFF#16 false) (alone ini (clks .near [hsPin true])) (fun b => !b.out.hsO && !b.busy) = true := by
  decide
/-- H2: samples 1, 1, 0, 0, 1 with hs_prev 1: WAIT_RISE completes in cycle 5. -/
theorem test_wait_rise :
    ends (.waitRise 0#16 false)
      (alone ini (clks .near [hsPin true, hsPin false, hsPin false, hsPin true, hsPin true])) (fun b => !b.busy) = true ∧
    ends (.waitRise 0#16 false)
      (alone ini (clks .near [hsPin true, hsPin false, hsPin false, hsPin true])) (fun b => b.busy) = true := by
  decide
/-- H3: samples 0, 0, 1, 0 with hs_prev 0: WAIT_FALL completes in cycle 4. -/
theorem test_wait_fall :
    let b := { ini with sync.hs := [false, false], sync.hsPrev := false }
    ends (.waitFall 0#16 false) (alone b (clks .near [hsPin false, hsPin true, hsPin false, hsPin false])) (fun b => !b.busy) = true ∧
    ends (.waitFall 0#16 false) (alone b (clks .near [hsPin false, hsPin true, hsPin false])) (fun b => b.busy) = true := by
  decide
/-- H4. -/
theorem test_wait_high :
    ends (.waitHigh 0#16 false) (alone ini (clks .near [hsPin false])) (fun b => !b.busy) = true := by decide
/-- H5: samples 1, 1, 0: WAIT_LOW completes in cycle 3. H6: with 1 for ever, it waits. -/
theorem test_wait_low :
    ends (.waitLow 0#16 false) (alone ini (clks .near [hsPin true, hsPin false, hsPin true])) (fun b => !b.busy) = true ∧
    ends (.waitLow 0#16 false) (alone ini (clks .near (List.replicate 9 (hsPin true))))
      (fun b => b.busy && decide (b.wstate = 5#4)) = true := by
  decide
/-- T1: 0xB0 on the wire is 0,0,0,0,1,1,0,1. -/
theorem test_write_byte_bits :
    (List.range 8).map (fun k =>
      ends (.writeByte 0#16 false) (alone { ini with regs.data := 0xB0#8 } (clks .near (List.replicate (8 * k + 5) (hsPin true))))
        (fun b => b.out.dataO)) = [false, false, false, false, true, true, false, true] := by
  decide
/-- T2: samples 1,1,1,0,0,1,1,1 give 0xE7. -/
theorem test_read_byte :
    ends (.readByte 0#16 false)
      (alone ini (clks .near ([true, true, true, false, false, true, true, true, true, true].flatMap
        fun d => List.replicate 7 ⟨true, d, true⟩)))
      (fun b => decide (b.regs.data = 0xE7#8 ∧ b.regs.result.word = 0x00010001#32)) = true := by
  decide
/-- T5: DATA_ACQUIRE takes the line, and READ_BYTE is then refused with ERR_DIR. -/
theorem test_data_acquire :
    ends (.dataAcquire 0#16 false) (alone ini (clks .near [hsPin true]))
      (fun b => b.out.dataOe && decide ((b.access (.write 0x00C#12 4 0x2#32)).regs.result.word = 7#32)) = true := by
  decide
/-- T5: DATA_RELEASE gives it up, and READ_BYTE is then accepted. -/
theorem test_data_release :
    ends (.dataRelease 0#16 false) (alone { ini with out.dataOe := true } (clks .near [hsPin true]))
      (fun b => !b.out.dataOe && (b.access (.write 0x00C#12 4 0x2#32)).busy) = true := by
  decide
/-- T4: XPORT_RESET clears SH and BITCNT; STRAY_CLK stays. -/
theorem test_xport_reset :
    ends (.xportReset 0#16 true)
      (alone { rsp with xp.sh := 0xB0#8, xp.bitcnt := 3#3, regs.events := 0x08#5 } (clks .near (List.replicate 4 (hsPin true))))
      (fun b => decide (b.xp.sh = 0#8 ∧ b.xp.bitcnt = 0#3 ∧ b.regs.events = 0x09#5)) = true := by
  decide
/-- H9 and R214: `delay 0` completes at once; `delay 2` with DIV = 2 holds for 6 cycles. -/
theorem test_delay :
    ends (.delay 0#16 false) (alone ini (clks .near [hsPin true])) (fun b => !b.busy) = true ∧
    ends (.delay 2#16 false) (alone { ini with regs.tickdiv := 2#16 } (clks .near (List.replicate 6 (hsPin true)))) (fun b => b.busy) = true ∧
    ends (.delay 2#16 false) (alone { ini with regs.tickdiv := 2#16 } (clks .near (List.replicate 7 (hsPin true)))) (fun b => !b.busy) = true := by
  decide

/-- The buffer of vector F4. -/
def frame80 : Memory := [(0x400, 0x80#8), (0x401, 0x80#8), (0x402, 0x00#8), (0x403, 0x00#8)]

/-- F4: 80 80 00 00 with ack 00. -/
theorem test_send_cmd_match :
    ends (.sendCmd 0#16 false) (framed (.sendCmd 0#16 false) false 560 (quick (.default .initiator) frame80))
      (fun b => decide (b.regs.result.word = 0x00040101#32 ∧ b.regs.cksum.word = 0#32 ∧ b.regs.events = 0x01#5)) = true := by
  decide +kernel
/-- As F2: an ack that differs from the sum. -/
theorem test_send_cmd_mismatch :
    ends (.sendCmd 0#16 false) (framed (.sendCmd 0#16 false) false 560 ini)
      (fun b => decide (b.regs.result.word = 0x00040002#32 ∧ b.regs.cksum.word = 0x14#32 ∧ b.regs.events = 0x03#5)) = true := by
  decide +kernel
/-- F12: READ_RESP 0 with 00 00. -/
theorem test_read_resp_empty :
    ends (.readResp 0#16 false) (framed (.readResp 0#16 false) false 280 ini)
      (fun b => decide (b.regs.result.word = 0x00000101#32 ∧ b.regs.cksum.word = 0#32 ∧ b.regs.advlen = 0#16)) = true := by
  decide +kernel
/-- F9: READ_RESP 254 with FF overruns. -/
theorem test_read_resp_overrun :
    ends (.readResp 254#16 false) (framed (.readResp 254#16 false) true 200 ini)
      (fun b => decide (b.regs.result.word = 0x00000003#32 ∧ b.regs.advlen = 0xFF#16 ∧ b.buf = frame)) = true := by
  decide +kernel

/-- The buffer of vector F15. -/
def frameExt : Memory :=
  [(0x400, 0x01#8), (0x401, 0x02#8), (0x402, 0x03#8), (0x403, 0x04#8), (0x405, 0x01#8), (0x406, 0x01#8),
    (0x407, 0x01#8), (0x408, 0x01#8), (0x409, 0x01#8)] ++
  [(0x40A, 0x01#8), (0x40B, 0x01#8), (0x40C, 0x01#8), (0x40D, 0x01#8), (0x40E, 0x01#8), (0x40F, 0x01#8)]

/-- The steps of EXT_PACKET's first stage (R270). -/
def stageA : Nat := 1 + ((List.range 4).flatMap (sendByteI .accA)).length + (cycleI .rd .locB).length + 1

/-- A block alone that runs these lines, against a peer that holds DATA at 1. -/
def ran (n : Nat) (b : Block) : Block := (peerOfIni true n b).foldl Block.clkStep b

/-- As F16, with both acks FF: the first stage. -/
theorem test_ext_packet_first :
    let b := { quick (.default .initiator) frameExt with seq.prog := .run (extPacketProg.take stageA) }
    let t := ran 400 b
    t.busy = false ∧ t.readBuf 4 = 0xFF#8 ∧ t.seq.locs.accA = 0x0A#8 := by
  decide +kernel
/-- And the second. -/
theorem test_ext_packet_second :
    let b := { quick (.default .initiator) (frameExt.writeByte 0x404 0xFF#8) with
      seq.prog := .run (extPacketProg.drop stageA), seq.locs.accA := 0x0A#8 }
    let t := ran 900 b
    t.regs.result.word = 0x00110001#32 ∧ t.regs.cksum.word = 0xFF0BFF0A#32 ∧ t.readBuf 16 = 0xFF#8 := by
  decide +kernel
/-- F18: RSP_READ_CKSUM 0 sends ack 00. -/
theorem test_rsp_read_cksum_empty :
    ends (.rspReadCksum 0#16 false) (served (.rspReadCksum 0#16 false) true 60 rsp)
      (fun b => decide (b.regs.result.word = 0x00000001#32 ∧ b.regs.cksum.word = 0#32) && b.out.dataOe) = true := by
  decide +kernel
/-- As F17, with one byte FF. -/
theorem test_rsp_read_cksum_one :
    ends (.rspReadCksum 1#16 false) (served (.rspReadCksum 1#16 false) true 120 rsp)
      (fun b => decide (b.regs.result.word = 0x00010001#32 ∧ b.regs.cksum.word = 0xFF#32 ∧ b.readBuf 0 = 0xFF#8)) = true := by
  decide +kernel
/-- F21: RSP_WRITE_CKSUM 0 in REV_B. -/
theorem test_rsp_write_cksum_empty :
    ends (.rspWriteCksum 0#16 false) (served (.rspWriteCksum 0#16 false) true 120 rsp)
      (fun b => decide (b.regs.result.word = 0x00000001#32 ∧ b.regs.cksum.word = 0#32) && b.out.dataOe) = true := by
  decide +kernel
/-- As F19, with the four bytes 12 34 56 78. -/
theorem test_rsp_write_cksum :
    ends (.rspWriteCksum 4#16 false) (served (.rspWriteCksum 4#16 false) true 260 rsp)
      (fun b => decide (b.regs.result.word = 0x00040001#32 ∧ b.regs.cksum.word = 0x14#32) && !b.out.dataO) = true := by
  decide +kernel

/-- R295 and R100: in REV_B the prefix is one byte and comes first, each byte LSB first. -/
theorem test_wire_of_rsp_write_cksum :
    (rsp.submit (.rspWriteCksum 1#16 false) (rspWriteCksumProg .revB 1)).wire
        (peerOfRsp true 160 0 (rsp.submit (.rspWriteCksum 1#16 false) (rspWriteCksumProg .revB 1))) =
      ([true, false, false, false, false, false, false, false] ++
        [false, true, false, false, true, false, false, false] ++
        [false, true, false, false, true, false, false, false]).map (true, ·) := by
  decide +kernel
/-- R347: AwaitByte ends, and its byte is taken, in the cycle of the eighth rising edge: its two further steps
begin no cycle, and no pin level reaches the block in them. -/
theorem test_await_byte_same_cycle :
    let b := { rsp with
      seq.prog := .run (awaitByteLines ++ [Line.finish .ok])
      xp := ⟨0x01#8, 7#3, false, true, 0#16⟩
      sync.sck := [true, false]
      sync.sckPrev := false }
    let b1 := b.clkStep (hsPin true)
    let b3 := (b1.clkStep ⟨false, false, false⟩).clkStep ⟨false, false, false⟩
    b1.seq.mid = true ∧ b3.seq.mid = false ∧ b3.sync = b1.sync ∧ b3.seq.locs.b = 0x80#8 ∧
      b3.xp = ⟨0x80#8, 0#3, false, false, 0#16⟩ ∧ b3.seq.prog = .run [.finish .ok] := by decide
/-- R17, R172 and R347: the falling edge and the bit on the line are two clk cycles' steps. -/
theorem test_bit_period_low :
    let b := { ini with seq.prog := .run (bitPeriod .wr), xp.sh := 0x02#8, regs.clkdiv := 4#16 }
    let b1 := b.clkStep (hsPin true)
    b1.out.sckO = false ∧ b1.out.dataO = true ∧ b1.startsCycle = true ∧ (b1.clkStep (hsPin true)).out.dataO = false := by
  decide
/-- R54, R172 and R347: the rising edge takes the first of DIV + 1 = 5 cycles; the bit, the shift, the count and the end of
the hold take the other four. -/
theorem test_bit_period_high :
    let b := { ini with seq.prog := .run [.takeBit .wr, .shiftBit, .countBit, .hold, .finish .ok], xp.sh := 0x02#8, xp.hph := 1#16, regs.clkdiv := 4#16 }
    let b2 := (b.clkStep (hsPin true)).clkStep (hsPin true)
    let b3 := b2.clkStep (hsPin true)
    b2.xp.sh = 0x01#8 ∧ b2.xp.bitcnt = 0#3 ∧ b3.xp.bitcnt = 1#3 ∧ b3.startsCycle = true ∧ b3.busy = true ∧
      (b3.clkStep (hsPin true)).seq.prog = .run [.finish .ok] := by
  decide
/-- R54 and R347: at DIV = 3 a low half is four cycles, at DIV = 0 as many as it has lines. -/
theorem test_half_periods :
    let sck := fun (v : Half) (n : Nat) => ((List.replicate n (hsPin true)).foldl Block.clkStep
      { ini with seq.prog := .run (bitPeriod .rd), regs.clkdiv := v }).out.sckO
    sck 3#16 4 = false ∧ sck 3#16 5 = true ∧ sck 0#16 2 = false ∧ sck 0#16 3 = true := by
  decide
/-- R105: a host access and a peer step fall between two lines of a bit period. -/
theorem test_access_between_lines :
    let s : State := ⟨{ ini with seq.prog := .run (bitPeriod .wr), xp.sh := 0x00#8 }, some rsp, false, .rest, 0, [], .near, []⟩
    let t := [.clk .near (hsPin true), .host .near (.read 0x010#12 4), .clk .far (hsPin true)].foldl State.apply s
    t.near.out.sckO = false ∧ t.near.out.dataO = true ∧ (t.apply (.clk .near (hsPin true))).near.out.dataO = false ∧
      t.replies = [⟨.near, 0x0000302D#32, true⟩] := by
  decide
/-- R104, I2: contention that begins after the rising edge; the sample in it is a draw, though the synchroniser
holds 1. -/
theorem test_contention_sample :
    let s : State := ⟨{ ini with out.sckO := false, xp.bitcnt := 1#3, seq.prog := .run [.sckHigh, .takeBit .rd, .hold] },
      some { rsp with out.dataOe := true, seq.prog := .run [.arm] }, false, ⟨9, 9, false, false⟩, 5, [], .near, []⟩
    let t := s.apply (.clk .near (hsPin true))
    let u := ({ t with near := t.near.driveOe true } : State).apply (.clk .near (hsPin true))
    t.draws = 5 ∧ t.near.sync.bit = true ∧ u.near.sync.data = [true, true] ∧
      u.near.seq.locs.d = Config.slipBit 5 ∧ u.draws = 6 ∧
      (t.apply (.clk .near (hsPin true))).near.seq.locs.d = true :=
  ⟨rfl, rfl, rfl, rfl, rfl, rfl⟩
/-- R380 (b) at equal clocks and S = 2: after a rising edge 7 cycles from the falling edge a bit is the synchronised
level (DIV = 6), after one 6 cycles from it a draw (DIV = 5). -/
theorem test_late_bit :
    let s : State := ⟨{ ini with out.sckO := false, xp.bitcnt := 1#3 }, some rsp, false, ⟨0, 0, false, false⟩, 0, [], .near, []⟩
    let run := fun n => ((lockstep true n).drop 1).foldl State.apply s
    let rise := fun (t : State) =>
      ({ t with near.seq.prog := .run [.sckHigh, .takeBit .rd, .hold] } : State).apply (.clk .near (hsPin true))
    (rise (run 7)).slips .near = false ∧ (rise (run 6)).slips .near = true := by
  decide

/-- X1 to X5, X7, X8, X12, X13. -/
theorem test_reads :
    ini.hostRead 0x000 4 = 0x53504601#32 ∧ ini.hostRead 0x004 4 = 0x01000202#32 ∧
    (quick { Config.default .responder with rev := .revA } []).hostRead 0x004 4 = 0x01000201#32 ∧
    ini.hostOk 0x002 2 = false ∧ ini.hostRead 0x00C 4 = 0#32 ∧ ini.hostOk 0x040 4 = true ∧
    ini.hostOk 0x041 4 = false ∧ ini.hostOk 0x500 4 = true ∧ ini.hostOk 0x500 1 = false := by decide
/-- X9 and R97. -/
theorem test_buffer_write :
    ((ini.access (.write 0x400#12 2 0xF2B0#32)).readBuf 0 = 0xB0#8 ∧
     (ini.access (.write 0x400#12 2 0xF2B0#32)).readBuf 1 = 0xF2#8) ∧
    ini.hostRead 0x400 4 = 0x78563412#32 := by decide
/-- Z1: STATUS after reset. Z5: STATUS in SEND_CMD's first phase 2. Z6: in RSP_READ_CKSUM's first phase 1. -/
theorem test_status :
    ini.hostRead 0x010 4 = 0x0000003C#32 ∧
    ends (.sendCmd 0#16 false) (alone ini (clks .near (List.replicate 5 (hsPin true))))
      (fun b => decide (b.hostRead 0x010 4 = 0x00101039#32)) = true ∧
    ends (.rspReadCksum 4#16 false) (alone rsp (clks .near (List.replicate 5 (hsPin true))))
      (fun b => decide (b.hostRead 0x010 4 = 0x0018103D#32)) = true := by decide
/-- The model's CONTENTION record (R104): both blocks take DATA. -/
theorem test_contention :
    (({ State.reset with near := { ini with out.dataOe := true }, far := some { rsp with seq.prog := .run [.driveOe true] } } : State).apply
      (.clk .far (hsPin true))).contention = true := by decide
/-- One step from reset with a word placed: the operation has run. -/
theorem test_step_from_reset :
    (match step (State.reset.withFetchWord 32 0x00000107) with
      | .next t => t.near.out.hsO && decide (t.near.regs.result.word = 1#32)
      | .fault _ => false
      | .refused _ => false) = true := by decide

/-! ## Witnesses: every statement's hypotheses can be met, together and clause by clause -/

theorem ini_inv : ini.Inv := by constructor <;> decide
theorem rsp_inv : rsp.Inv := by constructor <;> decide
theorem ini_hsQuiet : ini.hsQuiet := by intro v h; revert v h; decide
theorem rsp_hsQuiet : rsp.hsQuiet := by intro v h; revert v h; decide

/-- A state ready to run an operation on a quick block alone, with some schedule. -/
theorem ready (b : Block) (i : Instr) (env : List Event) (hr : b.rstN = true) (hb : b.busy = false)
    (hc : b.check i = .ok) : (alone b env).readyFor i b := ⟨⟨rfl, hr, hb⟩, hc⟩
theorem aloneReady (b : Block) (i : Instr) (env : List Event) (hr : b.rstN = true) (hb : b.busy = false)
    (hc : b.check i = .ok) : (alone b env).aloneFor i b := ⟨rfl, rfl, ready b i env hr hb hc⟩

/-! ### Encoding and the step -/

theorem witness_EncodeOfDecode : decode 0xFFFF0119#32 = .instr (.rspWriteCksum 0xFFFF#16 true) := by decide

theorem witness_StepRunsSubmittedCommand :
    let s := alone ini [.host .near (.write 0x00C#12 4 0x107#32)]
    s.env = .host .near (.write 0x00C#12 4 0x107#32) :: [] ∧ s.get .near = some ini ∧
      decode 0x107#32 = .instr (.hsDrive 0#16 true) := by decide

theorem witness_StepTakesOtherEvents :
    State.reset.env = [] ∧
    ((alone ini [.clk .far (hsPin true)]).get (Event.side (.clk .far (hsPin true))) = none) ∧
    (((alone ini [.clk .near (hsPin true)]).get (Event.side (.clk .near (hsPin true)))).isSome = true ∧
      ∀ (w : Word) (i : Instr), Event.clk .near (hsPin true) = .host .near (.write 0x00C#12 4 w) →
        decode w ≠ .instr i) :=
  ⟨rfl, rfl, rfl, fun _ _ h => by cases h⟩

/-- A CMD write that decodes to nothing is one of the other events. -/
theorem witness_StepTakesOtherEvents_reject (w : Word) (i : Instr)
    (h : Event.host .near (.write 0x00C#12 4 0x1F#32) = .host .near (.write 0x00C#12 4 w)) :
    decode w ≠ .instr i := by
  cases h
  have : decode 0x1F#32 = .reject .unassignedOp := by decide
  simp [this]

theorem witness_FetchedWordRunsNext : decodeTableWord 32 0x00000107 = some (.hsDrive 0#16 true) := by decide

/-! ### Reset and the host port -/

theorem witness_RstNGivesResetValues :
    ({ ini with rstN := false } : Block).rstN = false ∧ ini.cfg.rev = .revB ∧
    (quick { Config.default .responder with rev := .revA } []).cfg.rev = .revA := by decide
theorem witness_SoftResetEffect :
    (alone ini []).get .near = some ini ∧ ini.rstN = true ∧ (0x1#32 : Word).getLsbD 0 = true := by decide
theorem witness_AccessDuringReset : ({ ini with rstN := false } : Block).rstN = false := rfl
theorem witness_IdAndCfgAreConstant :
    ini.rstN = true ∧ ini.cfg.wf = true ∧ (alone ini []).get .near = some ini := by decide
/-- The borders of the three regions, and an access of each kind that is an error. -/
theorem witness_AccessWidthAndAlignment : ini.rstN = true ∧
    ini.hostOk 0x400 1 = true ∧ ini.hostOk 0x4FF 1 = true ∧ ini.hostOk 0x4FE 2 = true ∧
    ini.hostOk 0x03C 4 = true ∧ ini.hostOk 0x500 4 = true ∧ ini.hostOk 0xFFC 4 = true ∧
    ini.hostOk 0x4FE 4 = false ∧ ini.hostOk 0x400 3 = false ∧ ini.hostOk 0x03E 4 = false := by decide
theorem witness_ReservedOffsets : ini.rstN = true ∧
    (∀ addr ∈ [0x040#12, 0x3FC#12, 0x500#12, 0xFFC#12],
      ((0x040 ≤ addr.toNat ∧ addr.toNat < 0x400) ∨ 0x400 + ini.cfg.bufSize.bytes ≤ addr.toNat) ∧
      addr.toNat % 4 = 0) ∧
    ¬ (2 = 4 ∧ (0x040#12).toNat % 4 = 0) := by decide

/-- A block busy in a delay. -/
def busyBlock : Block := { ini with seq.prog := .run [.delay .argv, .finish .ok], seq.argv := 5#16 }

theorem witness_WritesWhileBusy : busyBlock.rstN = true ∧ busyBlock.busy = true ∧
    0x400 ≤ (0x400#12).toNat ∧ (0x4FF#12).toNat < 0x400 + busyBlock.cfg.bufSize.bytes ∧
    busyBlock.hostOk 0x400 4 = true ∧ busyBlock.hostOk 0x4FF 1 = true ∧
    (0x1#32 : Word).getLsbD 0 = true ∧ 0x014#12 ≠ 0x010#12 := by decide
theorem witness_IdleRegisterWrites : ini.rstN = true ∧ ini.busy = false ∧
    (0x2#32 : Word).getLsbD 0 = false ∧ 0 < 5 ∧ 4 < 5 := by decide
theorem witness_BufferByteOrder : ini.rstN = true ∧ ini.busy = false ∧
    ini.hostOk 0x400 4 = true ∧ ini.hostOk 0x4FF 1 = true ∧ 4 * 63 + 3 < ini.cfg.bufSize.bytes := by decide
/-- A bit that the step sets, and one that only the host clears. -/
theorem witness_HardwareSetWinsOverClear : ini.rstN = true ∧
    (({ { ini with seq.prog := .run [.finish .ok] } with regs.events := 0#5 } : Block).clkStep (hsPin true)).event
      .done = true ∧
    ({ ini with regs.events := 0x10#5 } : Block).event .wrIgnored = true ∧
    (({ ini with regs.events := 0#5 } : Block).clkStep (hsPin true)).event .wrIgnored = false ∧
    (0x10#32 : Word).getLsbD EventBit.wrIgnored.index = true := by decide
theorem witness_StatusFields : ini.rstN = true ∧ ini.cfg.role = .initiator ∧ ini.busy = false ∧
    rsp.rstN = true ∧ rsp.cfg.role = .responder := by decide
/-- A next line of each kind, outside CKSUM_COMPUTE and in it, before its line 6 and after. -/
theorem witness_StatusFields_wstate :
    (∀ l ∈ [Line.awaitHs true, .awaitHs false, .awaitByte, .hold, .delay .argv, .waitFinish .rise,
        .loadSh .acc, .takeDone true, .takeDone false, .clearDone, .arm],
      ({ rsp with seq.prog := .run [l] } : Block).seq.prog = .run (l :: []) ∧ rsp.seq.opv ≠ 0x0C#5) ∧
    (∀ ls ∈ [[Line.showCompute], [Line.setCalc]],
      ({ ini with seq.prog := .run ls, seq.opv := 0x0C#5 } : Block).seq.prog = .run ls ∧ ls ≠ []) := by
  decide
theorem witness_RegisterReads : ini.rstN = true ∧ rsp.rstN = true := by decide

/-! ### Submission -/

theorem witness_CheckReportsFirstFailure : ini.rstN = true ∧ ini.busy = false ∧
    decode 0x1F#32 = .reject .unassignedOp ∧
    (decode 0x00040018#32 = .instr (.rspReadCksum 4#16 false) ∧
      (Instr.rspReadCksum 4#16 false).roleOk ini.cfg.role = false) ∧
    (decode 0x0101000C#32 = .instr (.cksumCompute 257#16 false) ∧
      (Instr.cksumCompute 257#16 false).roleOk ini.cfg.role = true ∧
      (Instr.cksumCompute 257#16 false).argOk ini.cfg = false) ∧
    (decode 0x2#32 = .instr (.readByte 0#16 false) ∧ (Instr.readByte 0#16 false).wf ini.cfg = true ∧
      (Instr.readByte 0#16 false).opcode = 0x02#5 ∧
      ({ ini with out.dataOe := true } : Block).out.dataOe = true) ∧
    (Instr.cksumCompute 256#16 false).wf ini.cfg = true ∧
    ¬ ((Instr.cksumCompute 256#16 false).opcode = 0x02#5 ∧ ini.out.dataOe = true) := by decide
theorem witness_DroppedAndRefusedCommands :
    ((alone busyBlock []).get .near = some busyBlock ∧ busyBlock.rstN = true ∧ busyBlock.busy = true ∧
      (alone busyBlock []).contending = false) ∧
    ((alone ini []).idleAt ini ∧ ini.check (.rspReadCksum 4#16 false) ≠ .ok ∧
      (alone ini []).contending = false) ∧
    (ini.rstN = true ∧ ini.busy = false ∧ decode 0x1F#32 = .reject .unassignedOp) :=
  ⟨by decide, ⟨⟨rfl, rfl, rfl⟩, by decide, by decide⟩, by decide⟩
theorem witness_AcceptedCommandIsLatched :
    (alone ini []).readyFor (.readResp 0xFFFF#16 true) ini ∧ (alone ini []).env = [] :=
  ⟨ready _ _ _ rfl rfl (by decide), rfl⟩

/-! ### Primitives -/

theorem witness_NopCompletes :
    let s := alone ini (clks .near [hsPin true] ++ [])
    s.readyFor (.nop 7#16 true) ini ∧ s.env = clks s.port [hsPin true] ++ [] :=
  ⟨ready _ _ _ rfl rfl (by decide), rfl⟩
theorem witness_HsDriveCompletes :
    let s := alone rsp (clks .near [hsPin true] ++ [])
    s.readyFor (.hsDrive 7#16 true) rsp ∧ s.env = clks s.port [hsPin true] ++ [] :=
  ⟨ready _ _ _ rfl rfl (by decide), rfl⟩
/-- Both clauses, the second with t = 2 and one cycle short. -/
theorem witness_DelayHoldsThenCompletes :
    let ps := List.replicate 3 (hsPin true)
    let qs := List.replicate 1 (hsPin true)
    (alone ini (clks .near ps ++ [])).readyFor (.delay 2#16 false) ini ∧ ini.Inv ∧
      ps.length = ini.delayCycles 2#16 + 1 ∧ qs.length < ini.delayCycles 2#16 :=
  ⟨ready _ _ _ rfl rfl (by decide), ini_inv, by decide, by decide⟩

/-- A block for each wait: the line's level before, and a pre-poll delay of one tick. -/
def waiter (v : Level) : Block :=
  { ini with sync.hs := [v, v], sync.hsPrev := v, regs.prepoll := 1#16 }

theorem waiter_inv (v : Level) : (waiter v).Inv := by cases v <;> constructor <;> decide

theorem witness_WaitCompletesInFirstMatchingCycle :
    ∀ k ∈ [Wait.rise, .fall, .high, .low],
      let v : Level := match k with
        | .rise => false
        | .fall => true
        | .high => false
        | .low => true
      let ps := [hsPin v, hsPin (!v), hsPin (!v), hsPin (!v)]
      (alone (waiter v) (clks .near ps ++ [])).aloneFor (k.instr 0#16 false) (waiter v) ∧ (waiter v).Inv ∧
        (waiter v).delayCycles (waiter v).regs.prepoll ≤ 2 ∧ 2 < ps.length ∧
        k.seen (((waiter v).hsStream ps).getD 2 false) (((waiter v).hsStream ps).getD 3 false) ∧
        ∀ j, (waiter v).delayCycles (waiter v).regs.prepoll ≤ j → j < 2 →
          ¬ k.seen (((waiter v).hsStream ps).getD j false) (((waiter v).hsStream ps).getD (j + 1) false) := by
  intro k _
  refine ⟨aloneReady _ _ _ ?_ ?_ ?_, waiter_inv _, ?_, ?_, ?_, ?_⟩
  all_goals cases k
  all_goals first
    | decide
    | (intro j h1 h2
       have hj : j = 1 := Nat.le_antisymm (Nat.le_of_lt_succ h2) h1
       subst hj
       simp [Wait.seen, waiter, Block.hsStream, hsPin, ini, quick, Block.reset])
    | simp [Wait.seen, waiter, Block.hsStream, hsPin, ini, quick, Block.reset]

theorem witness_WaitHangsWithoutItsChange :
    let ps := [hsPin true, hsPin true, hsPin true]
    (alone (waiter true) (clks .near ps)).aloneFor (Wait.low.instr 0#16 false) (waiter true) ∧
      (waiter true).Inv ∧ (waiter true).delayCycles (waiter true).regs.prepoll ≤ ps.length ∧
      ∀ j, (waiter true).delayCycles (waiter true).regs.prepoll ≤ j → j < ps.length →
        ¬ Wait.low.seen (((waiter true).hsStream ps).getD j false)
          (((waiter true).hsStream ps).getD (j + 1) false) := by
  refine ⟨aloneReady _ _ _ rfl rfl (by decide), waiter_inv _, by decide, ?_⟩
  intro j h1 h2
  have hj : j = 1 ∨ j = 2 := by
    have : (waiter true).delayCycles (waiter true).regs.prepoll = 1 := by decide
    simp only [List.length_cons, List.length_nil] at h2
    omega
  rcases hj with rfl | rfl <;> simp [Wait.seen, waiter, Block.hsStream, hsPin, ini, quick, Block.reset]

/-- A framer operation on each role, the peer's line at rest, long enough to reach its await. -/
theorem witness_WaitHangsWithoutItsChange_framer :
    let ps := [hsPin true, hsPin true, hsPin true, hsPin true]
    ((alone ini (clks .near ps)).aloneFor (.sendCmd 0#16 false) ini ∧ ini.Inv ∧ ini.hsQuiet ∧
      (∀ p ∈ ps, p.hs = !ini.cfg.hsAssert) ∧ 3 + ini.delayCycles ini.regs.prepoll ≤ ps.length) ∧
    ((alone rsp (clks .near ps)).aloneFor (.rspReadCksum 4#16 false) rsp ∧ rsp.Inv ∧ rsp.hsQuiet) :=
  ⟨⟨aloneReady _ _ _ rfl rfl (by decide), ini_inv, ini_hsQuiet, by decide, by decide⟩,
    aloneReady _ _ _ rfl rfl (by decide), rsp_inv, rsp_hsQuiet⟩
/-- An await of each level, met and not met. -/
theorem witness_WaitHangsWithoutItsChange_await : ∀ a : Bool, ∀ v : Level,
    let b := { ini with seq.prog := .run [.awaitHs a], sync.hs := [v, v] }
    b.rstN = true ∧ b.seq.mid = false ∧ b.seq.prog = .run (.awaitHs a :: []) ∧
      lastStage (b.clkStep (hsPin true)).sync.hs = v := by decide

theorem witness_DataOwnershipCompletes :
    let s := alone ini (clks .near [hsPin true] ++ [])
    s.env = clks s.port [hsPin true] ++ [] ∧ s.readyFor (.dataAcquire 0#16 false) ini ∧
      s.readyFor (.dataRelease 0#16 false) ini ∧ ini.cfg.role = .initiator :=
  ⟨rfl, ready _ _ _ rfl rfl (by decide), ready _ _ _ rfl rfl (by decide), rfl⟩
/-- On an initiator, and on a responder whose clock is quiet. -/
theorem witness_XportResetCompletes :
    let ps := List.replicate 4 (hsPin true)
    ((alone ini (clks .near ps ++ [])).readyFor (.xportReset 0#16 false) ini ∧ ini.Inv ∧ ps.length = 4 ∧
      ini.cfg.role = .initiator) ∧
    ((alone rsp (clks .near ps ++ [])).readyFor (.xportReset 0#16 false) rsp ∧ rsp.Inv ∧
      (alone rsp (clks .near ps ++ [])).far = none ∧ rsp.clockQuiet ∧ ∀ p ∈ ps, p.sck = true) :=
  ⟨⟨ready _ _ _ rfl rfl (by decide), ini_inv, rfl, rfl⟩,
    ready _ _ _ rfl rfl (by decide), rsp_inv, rfl, ⟨rfl, by decide⟩, by decide⟩
/-- At DIV = 0 and at DIV = 4. -/
theorem witness_InitiatorWriteByteCompletes :
    let b4 := { ini with regs.clkdiv := 4#16 }
    ((alone ini (clks .near (List.replicate 69 (hsPin true)) ++ [])).readyFor (.writeByte 0#16 false) ini ∧ ini.Inv ∧
      ini.cfg.role = .initiator ∧ 69 = 5 + 8 * ini.bitCycles .wr + ini.delayCycles ini.regs.byteSettle) ∧
    (alone b4 (clks .near (List.replicate 85 (hsPin true)) ++ [])).readyFor (.writeByte 0#16 false) b4 ∧
      4 ≤ b4.regs.clkdiv.toNat ∧ 85 = 5 + 8 * b4.bitCycles .wr + b4.delayCycles b4.regs.byteSettle :=
  ⟨⟨ready _ _ _ rfl rfl (by decide), ini_inv, rfl, by decide⟩, ready _ _ _ rfl rfl (by decide), by decide, by decide⟩
/-- The second cycle of period 0 and the last of period 7. -/
theorem witness_InitiatorWriteByteWaveform :
    let ps := fun n => List.replicate n (hsPin true)
    (alone ini (clks .near (ps 5))).readyFor (.writeByte 0#16 false) ini ∧ ini.Inv ∧
      (3 + 0 * ini.bitCycles .wr + 1 < (ps 5).length ∧ (ps 5).length ≤ 3 + 0 * ini.bitCycles .wr + ini.bitCycles .wr) ∧
      (3 + 7 * ini.bitCycles .wr < (ps 67).length ∧
        (ps 67).length ≤ 3 + 7 * ini.bitCycles .wr + ini.bitCycles .wr) ∧
      4 ≤ ({ ini with regs.clkdiv := 4#16 } : Block).regs.clkdiv.toNat :=
  ⟨ready _ _ _ rfl rfl (by decide), ini_inv, by decide, by decide, by decide⟩
/-- At DIV = 0 and at DIV = 4. -/
theorem witness_InitiatorReadByteCompletes :
    let b4 := { ini with regs.clkdiv := 4#16 }
    ((alone ini (clks .near (List.replicate 60 (hsPin true)) ++ [])).aloneFor (.readByte 0#16 false) ini ∧ ini.Inv ∧
      ini.cfg.role = .initiator ∧ 60 = 4 + 8 * ini.bitCycles .rd + ini.delayCycles ini.regs.byteSettle) ∧
    (alone b4 (clks .near (List.replicate 84 (hsPin true)) ++ [])).aloneFor (.readByte 0#16 false) b4 ∧
      4 ≤ b4.regs.clkdiv.toNat ∧ 84 = 4 + 8 * b4.bitCycles .rd + b4.delayCycles b4.regs.byteSettle :=
  ⟨⟨aloneReady _ _ _ rfl rfl (by decide), ini_inv, rfl, by decide⟩, aloneReady _ _ _ rfl rfl (by decide), by decide,
    by decide⟩
theorem witness_ResponderByteOperationsComplete :
    rsp.Inv ∧ rsp.cfg.role = .responder ∧ rsp.clockQuiet ∧ rsp.xp.bitcnt = 0#3 ∧
      (alone rsp []).aloneFor (.readByte 0#16 false) rsp ∧ (alone rsp []).aloneFor (.writeByte 0#16 false) rsp :=
  ⟨rsp_inv, rfl, ⟨rfl, by decide⟩, rfl, aloneReady _ _ _ rfl rfl (by decide),
    aloneReady _ _ _ rfl rfl (by decide)⟩
theorem witness_ResponderShiftsLsbFirst : rsp.xp.bitcnt = 0#3 := rfl
/-- Idle: a falling edge, a rising edge that is the eighth, one that is not, and no edge. -/
theorem witness_ResponderFollowsTheClock : rsp.cfg.role = .responder ∧ rsp.rstN = true ∧ rsp.busy = false ∧
    rsp.seq.mid = false ∧
    (let b := { rsp with sync.sck := [false, true] }
     b.sync.sckPrev = true ∧ lastStage (b.clkStep (hsPin true)).sync.sck = false) ∧
    (let b := { rsp with sync.sck := [true, false], sync.sckPrev := false, xp.bitcnt := 7#3 }
     b.sync.sckPrev = false ∧ lastStage (b.clkStep (hsPin true)).sync.sck = true ∧ b.xp.bitcnt = 7#3) ∧
    rsp.xp.bitcnt ≠ 7#3 ∧ rsp.sync.sckPrev = lastStage (rsp.clkStep (hsPin true)).sync.sck := by decide
/-- Busy: at either AwaitByte, armed, the eighth edge coming. -/
theorem witness_ResponderFollowsTheClock_busy :
    ∀ ls ∈ [awaitByteLines ++ [Line.finish .ok], awaitDoneLines ++ [Line.finish .ok]],
      let b := { rsp with
        seq.prog := .run ls
        xp := ⟨0x01#8, 7#3, false, true, 0#16⟩
        sync.sck := [true, false]
        sync.sckPrev := false }
      b.cfg.role = .responder ∧ b.rstN = true ∧ b.seq.mid = false ∧ b.xp.byteDone = false ∧
        b.seq.prog = .run ls ∧
        b.sync.sckPrev = false ∧ lastStage (b.clkStep (hsPin true)).sync.sck = true ∧ b.xp.bitcnt = 7#3 := by
  decide
theorem witness_FinishEffect : ({ ini with seq.prog := .run [] } : Block).seq.prog = .run [] := rfl

/-! ### Checksum and frames -/

theorem witness_SingleByteMutationChangesChecksum :
    3 < [0x12#8, 0x34#8, 0x56#8, 0x78#8].length ∧ (0x79#8 : Byte) ≠ [0x12#8, 0x34#8, 0x56#8, 0x78#8][3] := by
  decide
theorem witness_CksumComputeCompletes :
    let ps := List.replicate 11 (hsPin true)
    (alone ini (clks .near ps ++ [])).readyFor (.cksumCompute 4#16 false) ini ∧
      ps.length = (4#16 : Half).toNat + 7 :=
  ⟨ready _ _ _ rfl rfl (by decide), rfl⟩

theorem isClk_clks (side : Side) (ps : List Pins) : ∀ e ∈ clks side ps, e.isClk = true := by
  intro e he
  obtain ⟨p, -, rfl⟩ := List.mem_map.mp he
  rfl

/-- A run that ends, for a statement about operations that end. -/
theorem ended {i : Instr} {s : State} (h : ends i s (fun b => !b.busy) = true) :
    ∃ t b', exec i s = .next t ∧ t.get s.port = some b' ∧ b'.busy = false := by
  obtain ⟨t, b', h1, h2, h3⟩ := of_ends h
  exact ⟨t, b', h1, h2, by simpa using h3⟩

/-- What the clauses about the wire ask of a state. -/
theorem framed_alone (i : Instr) (d : Level) (n : Nat) (b : Block) :
    (framed i d n b).far = none ∧ (framed i d n b).port = .near ∧
      ∃ ps, (framed i d n b).env = clks .near ps := ⟨rfl, rfl, _, rfl⟩
theorem served_alone (i : Instr) (d : Level) (n : Nat) (b : Block) :
    (served i d n b).far = none ∧ (served i d n b).port = .near ∧
      ∃ ps, (served i d n b).env = clks .near ps := ⟨rfl, rfl, _, rfl⟩
theorem rsp_atByteBoundary : rsp.atByteBoundary := ⟨rfl, rfl, rfl⟩

/-- A run that ends with no stray edge. -/
theorem endedClean {i : Instr} {s : State} (h : ends i s (fun b => !b.busy && !b.event .strayClk) = true) :
    ∃ t b', exec i s = .next t ∧ t.get s.port = some b' ∧ b'.busy = false ∧ b'.event .strayClk = false := by
  obtain ⟨t, b', h1, h2, h3⟩ := of_ends h
  exact ⟨t, b', h1, h2, by simpa using h3⟩

theorem witness_SendCmdResult :
    let s := framed (.sendCmd 0#16 false) false 560 ini
    s.readyFor (.sendCmd 0#16 false) ini ∧ ini.Inv ∧ (∀ e ∈ s.env, e.isClk = true) ∧
      ∃ t b', exec (.sendCmd 0#16 false) s = .next t ∧ t.get s.port = some b' ∧ b'.busy = false :=
  ⟨ready _ _ _ rfl rfl (by decide), ini_inv, isClk_clks _ _, ended (by decide +kernel)⟩
/-- Both endings: within the cap, and beyond it. -/
theorem witness_ReadRespResult :
    ∀ d : Level, let s := framed (.readResp 254#16 false) d 280 ini
      s.readyFor (.readResp 254#16 false) ini ∧ ini.Inv ∧ (∀ e ∈ s.env, e.isClk = true) ∧
        ∃ t b', exec (.readResp 254#16 false) s = .next t ∧ t.get s.port = some b' ∧ b'.busy = false := by
  intro d
  refine ⟨ready _ _ _ rfl rfl (by decide), ini_inv, isClk_clks _ _, ended ?_⟩
  cases d <;> decide +kernel
theorem witness_ExtPacketResult :
    let b := quick (.default .initiator) frameExt
    let s := framed (.extPacket 0#16 false) true 1300 b
    s.readyFor (.extPacket 0#16 false) b ∧ b.Inv ∧ (∀ e ∈ s.env, e.isClk = true) ∧
      ∃ t b', exec (.extPacket 0#16 false) s = .next t ∧ t.get s.port = some b' ∧ b'.busy = false :=
  ⟨ready _ _ _ rfl rfl (by decide), by constructor <;> decide, isClk_clks _ _, ended (by decide +kernel)⟩
theorem witness_RspReadCksumResult :
    let s := served (.rspReadCksum 1#16 false) true 120 rsp
    s.readyFor (.rspReadCksum 1#16 false) rsp ∧ rsp.Inv ∧ (∀ e ∈ s.env, e.isClk = true) ∧ rsp.atByteBoundary ∧
      ∃ t b', exec (.rspReadCksum 1#16 false) s = .next t ∧ t.get s.port = some b' ∧ b'.busy = false ∧
        b'.event .strayClk = false :=
  ⟨ready _ _ _ rfl rfl (by decide), rsp_inv, isClk_clks _ _, rsp_atByteBoundary,
    endedClean (by decide +kernel)⟩
theorem witness_RspWriteCksumResult :
    let s := served (.rspWriteCksum 1#16 false) true 160 rsp
    s.readyFor (.rspWriteCksum 1#16 false) rsp ∧ rsp.Inv ∧ (∀ e ∈ s.env, e.isClk = true) ∧ rsp.atByteBoundary ∧
      ∃ t b', exec (.rspWriteCksum 1#16 false) s = .next t ∧ t.get s.port = some b' ∧ b'.busy = false ∧
        b'.event .strayClk = false :=
  ⟨ready _ _ _ rfl rfl (by decide), rsp_inv, isClk_clks _ _, rsp_atByteBoundary,
    endedClean (by decide +kernel)⟩

theorem witness_SendCmdCompletes : (alone ini []).aloneFor (.sendCmd 0#16 false) ini ∧ ini.Inv :=
  ⟨aloneReady _ _ _ rfl rfl (by decide), ini_inv⟩
/-- A payload of exactly the cap, and an announced length one above it. -/
theorem witness_ReadRespCompletes :
    (alone ini []).aloneFor (.readResp 2#16 false) ini ∧ ini.Inv ∧ ini.hsQuiet ∧
      [0x01#8, 0x02#8].length ≤ min (2#16 : Half).toNat ini.cfg.bufSize.bytes ∧
      min (2#16 : Half).toNat ini.cfg.bufSize.bytes < (3#16 : Half).toNat ∧
      (ini.cfg.rev = .revB → (3#16 : Half).toNat < 256) :=
  ⟨aloneReady _ _ _ rfl rfl (by decide), ini_inv, ini_hsQuiet, by decide, by decide, by decide⟩
theorem witness_ExtPacketCompletes : (alone ini []).aloneFor (.extPacket 0#16 false) ini ∧ ini.Inv :=
  ⟨aloneReady _ _ _ rfl rfl (by decide), ini_inv⟩
theorem witness_RspReadCksumCompletes :
    (alone rsp []).aloneFor (.rspReadCksum 2#16 false) rsp ∧ rsp.Inv ∧ rsp.clockQuiet ∧
      rsp.xp.bitcnt = 0#3 ∧ [0x01#8, 0x02#8].length = (2#16 : Half).toNat :=
  ⟨aloneReady _ _ _ rfl rfl (by decide), rsp_inv, ⟨rfl, by decide⟩, rfl, rfl⟩
theorem witness_RspWriteCksumCompletes :
    (alone rsp []).aloneFor (.rspWriteCksum 255#16 false) rsp ∧ rsp.Inv ∧ rsp.clockQuiet ∧
      rsp.xp.bitcnt = 0#3 :=
  ⟨aloneReady _ _ _ rfl rfl (by decide), rsp_inv, ⟨rfl, by decide⟩, rfl⟩

/-! ### Frames and the whole machine -/

theorem witness_RegisterOnlyFrame :
    let s := alone ini (clks .near [hsPin true])
    s.readyFor (.nop 0#16 false) ini ∧ (∀ e ∈ s.env, e.isClk = true) ∧
      ∃ t b', exec (.nop 0#16 false) s = .next t ∧ t.get s.port = some b' ∧ b'.busy = false :=
  ⟨ready _ _ _ rfl rfl (by decide), isClk_clks _ _, ended (by decide)⟩
theorem witness_NonStoringFrame :
    let s := alone ini (clks .near (List.replicate 11 (hsPin true)))
    s.readyFor (.cksumCompute 4#16 false) ini ∧ (∀ e ∈ s.env, e.isClk = true) ∧
      ∃ t b', exec (.cksumCompute 4#16 false) s = .next t ∧ t.get s.port = some b' ∧ b'.busy = false :=
  ⟨ready _ _ _ rfl rfl (by decide), isClk_clks _ _, ended (by decide)⟩
theorem witness_StoringFrame :
    let s := served (.rspReadCksum 1#16 false) true 120 rsp
    s.readyFor (.rspReadCksum 1#16 false) rsp ∧ rsp.Inv ∧ (∀ e ∈ s.env, e.isClk = true) ∧
      ∃ t b', exec (.rspReadCksum 1#16 false) s = .next t ∧ t.get s.port = some b' ∧ b'.busy = false :=
  ⟨ready _ _ _ rfl rfl (by decide), rsp_inv, isClk_clks _ _, ended (by decide +kernel)⟩

/-- Two blocks that both drive DATA. -/
def fighting : State :=
  ⟨{ ini with out.dataOe := true }, some { rsp with out.dataOe := true }, true, .rest, 0, [.clk .near (hsPin true)], .near, []⟩

theorem witness_ContentionIsRecordedForEver :
    fighting.present (.clk .near (hsPin true)) = true ∧
    (fighting.apply (.clk .near (hsPin true))).contending = true ∧
    fighting.contention = true ∧ fighting.contending = true ∧
    (∀ e ∈ [Event.clk .near (hsPin true), .clkClear .near (hsPin true) 0#32], e.clocks = true ∧ e.side = .near) ∧
    (∃ t, step fighting = .next t) ∧ (∃ f, fighting.far = some f) ∧
    (∃ (s : State) (b : Block), s.contending = true ∧ s.get .near = some b ∧ b.rstN = true ∧
      ∃ rest, b.seq.prog = .run (.takeBit .rd :: rest)) :=
  ⟨rfl, by decide, rfl, rfl, by decide, ⟨_, rfl⟩, ⟨_, rfl⟩,
    ⟨{ fighting with near := { fighting.near with seq.prog := .run [.takeBit .rd] } }, _, rfl, rfl, rfl, _, rfl⟩⟩
/-- Two states that differ in the peer but not in its outputs. -/
theorem witness_BlocksShareOnlyTheLines :
    let s : State := ⟨ini, some rsp, false, .rest, 0, [], .near, []⟩
    let u : State := ⟨ini, some { rsp with xp.sh := 0xFF#8 }, false, .rest, 0, [], .near, []⟩
    let e : Event := .clk .near (hsPin true)
    s ≠ u ∧ s.get e.side = u.get e.side ∧
      (s.get e.side.other).map Block.out = (u.get e.side.other).map Block.out ∧
      s.slip e.side = u.slip e.side :=
  ⟨by decide, rfl, rfl, rfl⟩
/-- The initiator on each side: a bit that is a draw and one that is not; a step of it that changes CLK; the same
state with nothing running, where a cycle of it does not, nor does a host read, which begins none. -/
theorem witness_LateBitsAreDraws :
    let i := { ini with seq.prog := .run (bitPeriod .rd) }
    let n : State := ⟨i, some rsp, false, ⟨0, 0, false, true⟩, 0, [], .near, []⟩
    let f : State := ⟨rsp, some i, false, ⟨0, 0, false, true⟩, 0, [], .near, []⟩
    (i.rstN = true ∧ i.seq.mid = false ∧ i.cfg.role = .initiator ∧ rsp.cfg.role = .responder ∧
      i.startsCycle = true ∧ rsp.startsCycle = true ∧ rsp.rstN = true ∧ rsp.seq.mid = false) ∧
    (n.get .near = some i ∧ n.get (Side.other .near) = some rsp ∧ n.slips .near = true ∧ n.slips .far = false) ∧
    (f.get .far = some i ∧ f.get (Side.other .far) = some rsp ∧ f.slips .far = true ∧ f.slips .near = false) ∧
    (n.loose = true ∧ fighting.loose = true ∧
      ({ n with near := { ini with out.dataOe := true }, pace := .rest } : State).loose = false ∧
      ({ n with near := { ini with out.dataOe := true }, pace := .rest } : State).slips .near = false ∧
      ({ ini with seq.prog := .run [.takeBit .rd], seq.mid := true } : Block).startsCycle = false ∧
      ({ ini with seq.prog := .run [.takeBit .rd] } : Block).takingBit = true ∧ ini.takingBit = false) ∧
    (∀ e ∈ [Event.clk .near (hsPin true), .clkClear .near (hsPin true) 0#32], e.clocks = true ∧ e.side = .near) ∧
    (Event.host .near (.read 0#12 4)).clocks = false ∧
    (n.apply (.clk .near (hsPin true))).near.out.sckO ≠ i.out.sckO ∧
    ({ n with near := ini } : State).begins (.host .near (.read 0#12 4)) = false ∧
    (({ n with near := ini } : State).apply (.clk .near (hsPin true))).near.out.sckO = ini.out.sckO := by
  decide
theorem witness_InitiatorReleasesBeforeItReads :
    let s := alone ini (clks .near [hsPin true, hsPin true])
    s.readyFor (.readByte 0#16 false) ini ∧ ini.cfg.role = .initiator ∧ (∀ e ∈ s.env, e.isClk = true) ∧
      ∃ t b', exec (.readByte 0#16 false) s = .next t ∧ t.get s.port = some b' ∧
        ∃ pre rest, b'.seq.prog = .run (pre ++ .takeBit .rd :: rest) ∧ pre.length ≤ 3 := by
  refine ⟨ready _ _ _ rfl rfl (by decide), rfl, isClk_clks _ _, ?_⟩
  exact ⟨_, _, rfl, rfl, [.sckHigh], _, rfl, by decide⟩
/-- The responder waits, busy, as the statement's premise asks. -/
theorem witness_MatchedSendCmdAndRspReadCksum :
    ∃ s1, exec (.rspReadCksum 4#16 false)
      ⟨{ Block.reset (.default .initiator) true ⟨.near, 0⟩ with
          buf := [(0x400, 0xB0#8), (0x401, 0xF2#8), (0x402, 0x00#8), (0x403, 0x00#8)]
          regs.prepoll := 0#16
          regs.byteSettle := 0#16
          regs.clkdiv := 6#16 },
        some { Block.reset (.default .responder) true ⟨.far, 0⟩ with regs.prepoll := 0#16 }, false, .rest, 0, [], .far, []⟩ =
      .next s1 := ⟨_, rfl⟩
theorem witness_ResetMeetsInvariant :
    (Config.default .initiator).wf = true ∧
      ∀ c, some (Config.default .responder) = some c → c.wf = true := by
  refine ⟨by decide, fun c h => ?_⟩
  cases h; decide
/-- A busy block in the middle of a delay meets the invariant, and takes a step. -/
theorem witness_StepKeepsInvariant :
    let s := alone busyBlock [.clk .near (hsPin true)]
    s.Inv ∧ ∃ t, step s = .next t :=
  ⟨⟨(by constructor <;> decide), fun _ h => (by cases h), (by decide), rfl, fun _ h => (by cases h)⟩, ⟨_, rfl⟩⟩

end Sys2Proof.Tests
end

section
/-! SUPPORT. A clk cycle of a block that runs an operation, as one line of its pseudocode sees it: what the cycle has
done before the line (the synchronisers and the edge engine), and what the cycle keeps that the line does not touch. -/

namespace Sys2Proof.Machine

/-! ## The start of a clk cycle -/

/-- The block as its sequencer finds it in a clk cycle, after items 1 and 2 of 60_exceptions.md R347. -/
def Block.begun (b : Block) (p : Pins) (slip : Option Level) : Block := (b.syncShift p slip).edgeEngine

/-- All that the edge engine can change: STRAY_CLK, the transport, data_o and sck_prev (40_transport.md R174). -/
theorem Block.edgeEngine_eq (b : Block) : ∃ ev x d q,
    (ev = b.regs.events ∨ ev = b.regs.events ||| EventBit.strayClk.mask) ∧
    b.edgeEngine = { b with regs.events := ev, xp := x, out.dataO := d, sync.sckPrev := q } := by
  unfold Block.edgeEngine
  cases b.cfg.role with
  | initiator => exact ⟨_, _, _, _, .inl rfl, rfl⟩
  | responder =>
    simp only
    split
    · unfold Block.engineFall
      split <;> exact ⟨_, _, _, _, .inl rfl, rfl⟩
    · split
      · unfold Block.engineRise
        cases b.xp.armed <;> (simp only; split)
        iterate 2 exact ⟨_, _, _, _, .inr rfl, rfl⟩
        iterate 2 exact ⟨_, _, _, _, .inl rfl, rfl⟩
      · exact ⟨_, _, _, _, .inl rfl, rfl⟩

/-- What an operation keeps in the lines in which it only waits or prepares: the settings, the latched command, the
unfinished result and the level of CLK. -/
def Block.standing (b : Block) :
    (Config × Level × BitVec 5 × Half × Half × Half × Half × Half) × Bool × BitVec 5 × Half × ResultCode × Bool × Level :=
  (b.settings, b.seq.mid, b.seq.opv, b.seq.argv, b.regs.result.code, b.event .done, b.out.sckO)

/-- The length of a delay is a timing register or the latched ARG. -/
theorem Block.ticks_of_standing {b b' : Block} (h : b'.standing = b.standing) (d : Delay) :
    b'.ticks d = b.ticks d := by
  simp only [Block.standing, Block.settings, Prod.mk.injEq] at h
  cases d <;> simp [Block.ticks, h]

theorem Block.dropZero_of_standing {b b' : Block} (h : b'.standing = b.standing) (ls : List Line) :
    b'.dropZero ls = b.dropZero ls := Block.dropZero_congr (Block.ticks_of_standing h) ls

/-- The sequencer goes on at the first line that takes time. -/
theorem Block.goto_prog (b : Block) (rest : List Line) :
    (b.goto rest).seq.prog = .run ((b.goto rest).dropZero rest) :=
  congrArg Prog.run (Block.dropZero_of_standing (b := b) (b' := b.goto rest) rfl rest).symm

theorem Block.rstN_of_standing {b b' : Block} (h : b'.standing = b.standing) : b'.rstN = b.rstN :=
  congrArg (·.1.2.1) h

theorem Block.cfg_of_standing {b b' : Block} (h : b'.standing = b.standing) : b'.cfg = b.cfg :=
  congrArg (·.1.1) h

theorem Block.mid_of_standing {b b' : Block} (h : b'.standing = b.standing) : b'.seq.mid = b.seq.mid :=
  congrArg (·.2.1) h

theorem Block.tickdiv_of_standing {b b' : Block} (h : b'.standing = b.standing) : b'.regs.tickdiv = b.regs.tickdiv :=
  congrArg (·.1.2.2.2.1) h

/-- What the start of a clk cycle leaves alone. -/
theorem Block.begun_keeps (b : Block) (p : Pins) (slip : Option Level) :
    (b.begun p slip).standing = b.standing ∧ (b.begun p slip).seq = b.seq ∧ (b.begun p slip).tmr = b.tmr ∧
      b.out.sameDrive (b.begun p slip).out := by
  obtain ⟨ev, x, d, q, hev, he⟩ := (b.syncShift p slip).edgeEngine_eq
  have hdone : ev[0] = b.regs.events[0] := by
    rcases hev with rfl | rfl
    · rfl
    · simp [Block.syncShift, EventBit.mask, EventBit.index]
  rw [Block.begun, he]
  exact ⟨by simp [Block.standing, Block.settings, Block.syncShift, Block.event, EventBit.index, hdone], rfl, rfl,
    rfl, rfl, rfl⟩

/-- The hs_i synchroniser has shifted; hs_prev is still the level of the cycle before. -/
theorem Block.begun_hs (b : Block) (p : Pins) (slip : Option Level) :
    (b.begun p slip).sync.hs = shiftChain p.hs b.sync.hs ∧ (b.begun p slip).sync.hsPrev = b.sync.hsPrev := by
  obtain ⟨ev, x, d, q, -, he⟩ := (b.syncShift p slip).edgeEngine_eq
  rw [Block.begun, he]
  exact ⟨rfl, rfl⟩

/-! ## A clk cycle with a line to run -/

/-- No line's own step says whether the cycle goes on. -/
@[simp] theorem Block.mid_runLine (b : Block) (l : Line) (rest : List Line) :
    (b.runLine l rest).seq.mid = b.seq.mid := by
  cases l with
  | delay d => simp only [Block.runLine]; unfold Block.delayCycle; split <;> [skip; split] <;> rfl
  | hold => simp only [Block.runLine]; unfold Block.holdCycle; split <;> rfl
  | loadSh v => cases v <;> rfl
  | armSh v => cases v <;> rfl
  | awaitHs a => simp only [Block.runLine]; split <;> rfl
  | awaitByte => simp only [Block.runLine]; split <;> rfl
  | testOverrun => simp only [Block.runLine]; split <;> rfl
  | waitFinish k => simp only [Block.runLine]; split <;> simp
  | xportSck => simp only [Block.runLine]; split <;> rfl
  | _ => simp [Block.runLine, Block.countHalf]

/-- The sequencer's part of a clk cycle is the next line's step, if the cycle ends with it. -/
theorem Block.clkStep_line {b : Block} {l : Line} {rest : List Line} (p : Pins) (slip : Option Level)
    (hr : b.rstN = true) (hm : b.seq.mid = false) (hp : b.seq.prog = .run (l :: rest))
    (hf : (b.begun p slip).flows l = false) :
    b.clkStep p slip = ((b.begun p slip).runLine l rest).latchPrev := by
  obtain ⟨-, hseq, -, -⟩ := b.begun_keeps p slip
  have hp' : (b.begun p slip).seq.prog = .run (l :: rest) := by rw [hseq, hp]
  have hm' : ((b.begun p slip).runLine l rest).seq.mid = false := by rw [Block.mid_runLine, hseq, hm]
  rw [Block.clkStep_begins p slip hr hm, ← Block.begun, Block.seqStep, Block.lineStep_cons hp', Block.goesOn, hp']
  simp only [hf, ← hm']

/-- A clk cycle shifts the hs_i synchroniser, and hs_prev takes its new output. -/
theorem Block.clkStep_hs {b : Block} (p : Pins) (slip : Option Level) (hr : b.rstN = true) (hm : b.seq.mid = false) :
    (b.clkStep p slip).sync.hs = shiftChain p.hs b.sync.hs ∧
      (b.clkStep p slip).sync.hsPrev = lastStage (shiftChain p.hs b.sync.hs) := by
  obtain ⟨hhs, -⟩ := b.begun_hs p slip
  rw [Block.clkStep_begins p slip hr hm, ← Block.begun]
  simp [Block.hsSample, hhs]

/-! ## The stream of the hs_i synchroniser -/

/-- The hs_i synchroniser has a stage, and hs_prev holds its last output, as the invariant says. -/
def Block.hsTracked (b : Block) : Prop := b.sync.hs ≠ [] ∧ b.sync.hsPrev = lastStage b.sync.hs

theorem Block.Inv.hsTracked {b : Block} (h : b.Inv) : b.hsTracked := by
  have hwf := h.cfgWf
  have hlen := h.hsStages
  simp only [Config.wf, Bool.and_eq_true, decide_eq_true_eq] at hwf
  exact ⟨List.ne_nil_of_length_pos (by omega), h.hsPrevTracks⟩

/-- The last stage holds the oldest level. -/
theorem lastStage_eq_reverse (chain : List Level) : lastStage chain = chain.reverse.getD 0 false := by
  simp [lastStage, List.getD_eq_getElem?_getD, ← List.head?_eq_getElem?, List.getLastD_eq_getLast?]

/-- A shift, oldest level first: the oldest goes out and the new one comes in behind. -/
theorem reverse_shiftChain (v : Level) (chain : List Level) :
    (shiftChain v chain).reverse = (chain.reverse ++ [v]).tail := by
  rw [shiftChain, show chain.length = (v :: chain).length - 1 from rfl, ← List.dropLast_eq_take, ← List.tail_reverse,
    List.reverse_cons]

/-- Every clk cycle keeps hs_prev on the synchroniser's output. -/
theorem Block.hsTracked_clkStep {b : Block} (p : Pins) (slip : Option Level) (hr : b.rstN = true)
    (hm : b.seq.mid = false) (h : b.hsTracked) : (b.clkStep p slip).hsTracked := by
  obtain ⟨hhs, hprev⟩ := Block.clkStep_hs p slip hr hm
  refine ⟨?_, hprev.trans (congrArg _ hhs.symm)⟩
  rw [hhs, shiftChain]
  simp [h.1]

/-- A clk cycle takes the first level off the stream. -/
theorem Block.hsStream_clkStep {b : Block} (p : Pins) (slip : Option Level) (ps : List Pins) (hr : b.rstN = true)
    (hm : b.seq.mid = false) (h : b.sync.hs ≠ []) :
    (b.clkStep p slip).hsStream ps = (b.hsStream (p :: ps)).tail := by
  simp [Block.hsStream, (Block.clkStep_hs p slip hr hm).1, reverse_shiftChain, h]

/-- The first two levels of the stream are what the sequencer sees in the next cycle: the level before it and the level
in it. -/
theorem Block.begun_hsStream {b : Block} (p : Pins) (slip : Option Level) (ps : List Pins) (h : b.hsTracked) :
    (b.begun p slip).sync.hsPrev = (b.hsStream (p :: ps)).getD 0 false ∧
      (b.begun p slip).hsSample = (b.hsStream (p :: ps)).getD 1 false := by
  obtain ⟨hhs, hprev⟩ := b.begun_hs p slip
  obtain ⟨hne, htr⟩ := h
  obtain ⟨v, vs, hrev⟩ := List.exists_cons_of_ne_nil (List.reverse_ne_nil_iff.mpr hne)
  rw [hprev, htr, Block.hsSample, hhs, lastStage_eq_reverse, lastStage_eq_reverse, reverse_shiftChain, Block.hsStream,
    hrev]
  cases vs <;> simp

end Sys2Proof.Machine
end

section
/-! SUPPORT. A delay, cycle by cycle (41_handshake.md R214): how many of its cycles are left, and what it keeps. -/

namespace Sys2Proof.Machine

/-- The block runs delay(d) with `n` cycles of it left, or, if n = 0, is at the lines `rest` after it. With r whole
ticks left after the one under way, n + PCNT is r·(DIV+1) + DIV + 1. -/
inductive Block.Delaying (b : Block) (d : Delay) (rest : List Line) : Nat → Prop
  | past : b.seq.prog = .run (b.dropZero rest) → b.tmr = .reset → b.Delaying d rest 0
  | going {n r : Nat} : b.seq.prog = .run (.delay d :: rest) → b.tmr.dcnt.toNat + r + 1 = (b.ticks d).toNat →
      n + b.tmr.pcnt.toNat = r * (b.regs.tickdiv.toNat + 1) + b.regs.tickdiv.toNat →
      b.tmr.pcnt.toNat ≤ b.regs.tickdiv.toNat → b.Delaying d rest (n + 1)

theorem Block.Delaying.busy {b : Block} {d : Delay} {rest : List Line} {n : Nat} (h : b.Delaying d rest n) :
    b.busy = true := by
  cases h with
  | past hp => simp [Block.busy, hp]
  | going hp => simp [Block.busy, hp]

/-- A delay begins with all its cycles left; with none, it is passed over. -/
theorem Block.delaying_of_prog {b : Block} {d : Delay} {rest : List Line} (ht : b.tmr = .reset)
    (hp : b.seq.prog = .run (b.dropZero (.delay d :: rest))) :
    b.Delaying d rest (b.delayCycles (b.ticks d)) := by
  rw [Block.dropZero] at hp
  split at hp
  · rename_i h0
    rw [show b.delayCycles (b.ticks d) = 0 by simp [Block.delayCycles, h0]]
    exact .past hp ht
  · rename_i h0
    obtain ⟨r, hr⟩ := Nat.exists_eq_succ_of_ne_zero (n := (b.ticks d).toNat) fun h => h0 (BitVec.eq_of_toNat_eq h)
    rw [show b.delayCycles (b.ticks d) = r * (b.regs.tickdiv.toNat + 1) + b.regs.tickdiv.toNat + 1 by
      rw [Block.delayCycles, hr, Nat.succ_mul]; omega]
    exact .going (r := r) hp (by simp [ht, Timers.reset, hr]) (by simp [ht, Timers.reset]) (by simp [ht, Timers.reset])

/-- A delay looks at the position, the timers and what an operation keeps while it waits. -/
theorem Block.Delaying.congr {b b' : Block} {d : Delay} {rest : List Line} {n : Nat} (h : b.Delaying d rest n)
    (hst : b'.standing = b.standing) (hp : b'.seq.prog = b.seq.prog) (ht : b'.tmr = b.tmr) :
    b'.Delaying d rest n := by
  cases h with
  | past hp' ht' => exact .past (by rw [hp, hp', Block.dropZero_of_standing hst]) (ht.trans ht')
  | going hp' hd hn hk =>
    rw [← Block.ticks_of_standing hst, ← ht] at hd
    rw [← Block.tickdiv_of_standing hst, ← ht] at hn hk
    exact .going (hp.trans hp') hd hn hk

/-- A delay keeps what an operation keeps while it waits, and drives nothing. -/
theorem Block.delayCycle_keeps (b : Block) (t : Half) (stay rest : List Line) :
    (b.delayCycle t stay rest).standing = b.standing ∧ (b.delayCycle t stay rest).out = b.out := by
  unfold Block.delayCycle
  split
  · exact ⟨rfl, rfl⟩
  · split <;> exact ⟨rfl, rfl⟩

/-- A counter below its limit counts without wrapping. -/
theorem toNat_succ_of_lt {x : Half} (h : x.toNat + 1 < 2 ^ 16) : (x + 1#16).toNat = x.toNat + 1 :=
  BitVec.toNat_add_of_lt h

/-- The delay's line leaves one cycle less. -/
theorem Block.Delaying.delayCycle {b : Block} {d : Delay} {rest : List Line} {n : Nat}
    (h : b.Delaying d rest (n + 1)) :
    (b.delayCycle (b.ticks d) (.delay d :: rest) rest).Delaying d rest n := by
  have hst := (b.delayCycle_keeps (b.ticks d) (.delay d :: rest) rest).1
  have hticks := Block.ticks_of_standing hst d
  cases h with | going hp hd hn hk =>
  rename_i r
  have hlt := (b.ticks d).isLt
  have hdiv := b.regs.tickdiv.isLt
  unfold Block.delayCycle at hticks ⊢
  split
  · next h1 =>
    have h1 := BitVec.lt_def.mp h1
    obtain ⟨m, rfl⟩ : ∃ m, n = m + 1 := ⟨n - 1, by omega⟩
    have hpc := toNat_succ_of_lt (x := b.tmr.pcnt) (by omega)
    refine .going (r := r) rfl ?_ ?_ ?_
    · exact hd
    · simp only [hpc]; omega
    · simp only [hpc]; omega
  · next h1 =>
    have h1 := mt BitVec.lt_def.mpr h1
    have hdc := toNat_succ_of_lt (x := b.tmr.dcnt) (by omega)
    split
    · next h2 =>
      have h2 := BitVec.lt_def.mp h2
      obtain ⟨q, rfl⟩ : ∃ q, r = q + 1 := ⟨r - 1, by omega⟩
      rw [Nat.succ_mul] at hn
      obtain ⟨m, rfl⟩ : ∃ m, n = m + 1 := ⟨n - 1, by omega⟩
      refine .going (r := q) rfl ?_ ?_ ?_
      · simp only [hdc]
        exact (by omega : b.tmr.dcnt.toNat + 1 + q + 1 = (b.ticks d).toNat)
      · simp only [BitVec.toNat_ofNat]; omega
      · simp
    · next h2 =>
      have h2 := mt BitVec.lt_def.mpr h2
      obtain rfl : r = 0 := by omega
      obtain rfl : n = 0 := by omega
      exact .past (Block.goto_prog _ _) rfl

/-- A cycle of a delay leaves one cycle less. -/
theorem Block.Delaying.clkStep {b : Block} {d : Delay} {rest : List Line} {n : Nat} (p : Pins) (slip : Option Level)
    (hr : b.rstN = true) (hm : b.seq.mid = false) (h : b.Delaying d rest (n + 1)) :
    (b.clkStep p slip).Delaying d rest n ∧ (b.clkStep p slip).standing = b.standing ∧
      b.out.sameDrive (b.clkStep p slip).out := by
  obtain ⟨hst, hseq, htmr, hdrive⟩ := b.begun_keeps p slip
  have hx := h.congr hst (congrArg _ hseq) htmr
  cases h with | going hp =>
  rw [Block.clkStep_line p slip hr hm hp rfl]
  obtain ⟨hkeep, hout⟩ := (b.begun p slip).delayCycle_keeps ((b.begun p slip).ticks d) (.delay d :: rest) rest
  refine ⟨hx.delayCycle.congr rfl rfl rfl, hkeep.trans hst, ?_⟩
  simpa [Block.runLine, hout] using hdrive

end Sys2Proof.Machine
end

section
/-! SUPPORT. An await of the handshake line that is not met, and the run of a block that comes to one. -/

namespace Sys2Proof.Machine

/-! ## The await of a level -/

/-- The await of a handshake level ends in a cycle exactly if the synchronised line is at the level
(41_handshake.md R212). -/
theorem Block.clkStep_awaitHs {b : Block} {a : Bool} {rest : List Line} (p : Pins) (slip : Option Level)
    (hr : b.rstN = true) (hm : b.seq.mid = false) (hp : b.seq.prog = .run (.awaitHs a :: rest)) :
    (b.clkStep p slip).seq = if lastStage (b.clkStep p slip).sync.hs = hsLevel b.cfg a
      then { b.seq with prog := .run (b.dropZero rest) } else b.seq := by
  obtain ⟨hst, hseq, -, -⟩ := b.begun_keeps p slip
  rw [Block.clkStep_line p slip hr hm hp rfl, Block.latchPrev_seq, Block.latchPrev_sync, Block.sync_runLine]
  simp only [Block.runLine, Block.hsSample, Block.cfg_of_standing hst]
  split <;> simp [hseq, Block.dropZero_of_standing hst]

/-! ## An await that is not met -/

/-- Between this synchronised level of one cycle and the next the line goes on waiting (41_handshake.md R212, R213). -/
def Line.unmet (c : Config) (prev now : Level) : Line → Prop
  | .awaitHs a => now ≠ hsLevel c a
  | .waitFinish k => ¬ k.seen prev now
  | _ => False

/-- What a WAIT_* operation tests is what it waits for. -/
theorem Block.waitMet_iff (b : Block) (k : Wait) : b.waitMet k = true ↔ k.seen b.sync.hsPrev b.hsSample := by
  cases k <;> simp [Block.waitMet, Wait.seen]

/-- A line that goes on waiting does nothing, and its cycle ends. -/
theorem Block.runLine_unmet {b : Block} {w : Line} (rest : List Line)
    (h : w.unmet b.cfg b.sync.hsPrev b.hsSample) :
    b.runLine w rest = b ∧ b.flows w = false ∧ b.dropZero (w :: rest) = w :: rest := by
  unfold Line.unmet at h
  split at h
  · exact ⟨by simp [Block.runLine, h], rfl, rfl⟩
  · exact ⟨by simp [Block.runLine, Block.waitMet_iff, h], rfl, rfl⟩
  · exact h.elim

/-- A cycle of a delay before an await: the delay has a cycle less to go, or the await goes on waiting. -/
theorem Block.Delaying.clkStep_unmet {b : Block} {d : Delay} {w : Line} {rest : List Line} {n : Nat} (p : Pins)
    (ps : List Pins) (hr : b.rstN = true) (hm : b.seq.mid = false) (hs : b.hsTracked)
    (h : b.Delaying d (w :: rest) n)
    (hw : n = 0 → w.unmet b.cfg ((b.hsStream (p :: ps)).getD 0 false) ((b.hsStream (p :: ps)).getD 1 false)) :
    (b.clkStep p).Delaying d (w :: rest) (n - 1) ∧ (b.clkStep p).standing = b.standing ∧
      b.out.sameDrive (b.clkStep p).out := by
  cases n with
  | succ n => exact h.clkStep p none hr hm
  | zero =>
    obtain ⟨hst, hseq, htmr, hdrive⟩ := b.begun_keeps p none
    have hx := h.congr hst (congrArg _ hseq) htmr
    obtain ⟨hprev, hnow⟩ := Block.begun_hsStream p none ps hs
    have hw := hw rfl
    rw [← hprev, ← hnow, ← Block.cfg_of_standing hst] at hw
    obtain ⟨hrun, hflow, hdrop⟩ := Block.runLine_unmet rest hw
    cases h with | past hp =>
    rw [← Block.dropZero_of_standing hst, hdrop] at hp
    rw [Block.clkStep_line p none hr hm hp hflow, hrun]
    exact ⟨hx.congr rfl rfl rfl, hst, hdrive⟩

theorem Outputs.sameDrive.trans {o o' o'' : Outputs} (h : o.sameDrive o') (h' : o'.sameDrive o'') :
    o.sameDrive o'' :=
  ⟨h'.1.trans h.1, h'.2.1.trans h.2.1, h'.2.2.trans h.2.2⟩

/-- A run from a delay before an await that is not met in any cycle after the delay: the block stays busy, keeps
what an operation keeps while it waits, drives nothing, and is at the await once the delay is over. -/
theorem Block.Delaying.runPins_unmet {d : Delay} {w : Line} {rest : List Line} (ps : List Pins) :
    ∀ {b : Block} {n : Nat}, b.rstN = true → b.seq.mid = false → b.hsTracked → b.Delaying d (w :: rest) n →
      (∀ j, n ≤ j → j < ps.length →
        w.unmet b.cfg ((b.hsStream ps).getD j false) ((b.hsStream ps).getD (j + 1) false)) →
      (b.runPins ps).1.Delaying d (w :: rest) (n - ps.length) ∧ (b.runPins ps).1.standing = b.standing ∧
        b.out.sameDrive (b.runPins ps).1.out := by
  induction ps with
  | nil => exact fun _ _ _ h _ => ⟨h, rfl, rfl, rfl, rfl⟩
  | cons p ps ih =>
    intro b n hr hm hs h hw
    obtain ⟨hdel, hst, hdrive⟩ := h.clkStep_unmet p ps hr hm hs fun h0 => hw 0 (by omega) (by simp)
    obtain ⟨hdel', hst', hdrive'⟩ := ih ((Block.rstN_of_standing hst).trans hr) ((Block.mid_of_standing hst).trans hm)
      (Block.hsTracked_clkStep p none hr hm hs) hdel fun j h1 h2 => by
        have := hw (j + 1) (by omega) (by simpa using h2)
        simpa [Block.hsStream_clkStep p none ps hr hm hs.1, Block.cfg_of_standing hst] using this
    rw [Block.runPins_busy p ps h.busy]
    refine ⟨?_, hst'.trans hst, hdrive.trans hdrive'⟩
    simpa [Nat.sub_sub, Nat.add_comm] using hdel'

/-! ## The lines before a framer operation's first await -/

/-- A line of one step that prepares a frame: it moves no CLK, waits for nothing and ends nothing. -/
def Line.opens : Line → Bool
  | .clearAcc _ | .setN | .setCap | .driveOe _ | .driveHs _ => true
  | _ => false

/-- Such a line goes on at once, and keeps what an operation keeps while it waits. -/
theorem Block.runLine_opens (b : Block) {l : Line} (rest : List Line) (h : l.opens = true) :
    b.flows l = false ∧ b.dropZero (l :: rest) = l :: rest ∧
      ∃ y : Block, b.runLine l rest = y.goto rest ∧ y.standing = b.standing ∧ y.tmr = b.tmr := by
  cases l with
  | clearAcc a => exact ⟨rfl, rfl, _, rfl, rfl, rfl⟩
  | setN => exact ⟨rfl, rfl, _, rfl, rfl, rfl⟩
  | setCap => exact ⟨rfl, rfl, _, rfl, rfl, rfl⟩
  | driveOe v => exact ⟨rfl, rfl, _, rfl, rfl, rfl⟩
  | driveHs a => exact ⟨rfl, rfl, _, rfl, rfl, rfl⟩
  | _ => simp [Line.opens] at h

/-- A clk cycle of an opening line. -/
theorem Block.clkStep_opens {b : Block} {l : Line} {rest : List Line} (p : Pins) (slip : Option Level)
    (hr : b.rstN = true) (hm : b.seq.mid = false) (h : l.opens = true)
    (hp : b.seq.prog = .run (b.dropZero (l :: rest))) :
    (b.clkStep p slip).seq.prog = .run ((b.clkStep p slip).dropZero rest) ∧
      (b.clkStep p slip).standing = b.standing ∧ (b.clkStep p slip).tmr = b.tmr := by
  obtain ⟨hst, -, htmr, -⟩ := b.begun_keeps p slip
  obtain ⟨hflow, hdrop, y, hy, hyst, hytmr⟩ := (b.begun p slip).runLine_opens rest h
  rw [← Block.dropZero_of_standing hst, hdrop] at hp
  rw [Block.clkStep_line p slip hr hm hp hflow, hy]
  refine ⟨?_, hyst.trans hst, hytmr.trans htmr⟩
  rw [Block.dropZero_of_standing (b := y.goto rest) (b' := (y.goto rest).latchPrev) rfl]
  exact y.goto_prog rest

/-- A run through opening lines and a delay to an await that is never met: the block stays busy, keeps what an
operation keeps while it waits, and is at the await if the schedule is long enough to reach it. -/
theorem Block.runPins_opens_unmet {d : Delay} {w : Line} {rest : List Line} (pre : List Line) :
    ∀ {b : Block} (ps : List Pins), b.rstN = true → b.seq.mid = false → b.hsTracked → b.tmr = .reset →
      (∀ l ∈ pre, l.opens = true) → b.seq.prog = .run (b.dropZero (pre ++ .delay d :: w :: rest)) →
      (∀ j < ps.length, w.unmet b.cfg ((b.hsStream ps).getD j false) ((b.hsStream ps).getD (j + 1) false)) →
      (b.runPins ps).1.busy = true ∧ (b.runPins ps).1.standing = b.standing ∧
        (pre.length + b.delayCycles (b.ticks d) ≤ ps.length →
          (b.runPins ps).1.Delaying d (w :: rest) 0) := by
  induction pre with
  | nil =>
    intro b ps hr hm hs ht _ hp hw
    obtain ⟨hdel, hst, -⟩ :=
      (Block.delaying_of_prog ht hp).runPins_unmet ps hr hm hs fun j _ hj => hw j hj
    refine ⟨hdel.busy, hst, fun hlen => ?_⟩
    rwa [Nat.sub_eq_zero_of_le (by simpa using hlen)] at hdel
  | cons l pre ih =>
    intro b ps hr hm hs ht hpre hp hw
    have hbusy : b.busy = true := by simp [Block.busy, hp]
    cases ps with
    | nil => exact ⟨hbusy, rfl, fun hlen => by simp at hlen⟩
    | cons p ps =>
      obtain ⟨hp', hst, ht'⟩ := Block.clkStep_opens p none hr hm (hpre l List.mem_cons_self) hp
      obtain ⟨hb, hst', hend⟩ := ih ps ((Block.rstN_of_standing hst).trans hr) ((Block.mid_of_standing hst).trans hm)
        (Block.hsTracked_clkStep p none hr hm hs) (ht'.trans ht) (fun l hl => hpre l (List.mem_cons_of_mem _ hl)) hp'
        fun j hj => by
          have := hw (j + 1) (by simpa using hj)
          simpa [Block.hsStream_clkStep p none ps hr hm hs.1, Block.cfg_of_standing hst] using this
      rw [Block.runPins_busy p ps hbusy]
      refine ⟨hb, hst'.trans hst, fun hlen => hend ?_⟩
      rw [Block.delayCycles, Block.ticks_of_standing hst, Block.tickdiv_of_standing hst, ← Block.delayCycles]
      simp only [List.length_cons] at hlen
      omega

/-! ## An operation of a block alone -/

/-- What acceptance makes of a block (30_encoding.md R124). -/
theorem Block.accept_standing (b : Block) (i : Instr) (prog : List Line) :
    (b.accept i prog).standing = (b.settings, false, i.opcode, i.arg, .none, false, b.out.sckO) := by
  simp [Block.standing, Block.accept, Block.settings, Result.zero, Block.event, EventBit.mask, EventBit.index]

/-- A run over steps of the clock ends when they are used up or when the operation is over. -/
theorem Block.runPins_rest (ps : List Pins) :
    ∀ b : Block, (b.runPins ps).2 = [] ∨ (b.runPins ps).1.busy = false := by
  induction ps with
  | nil => exact fun _ => .inl rfl
  | cons p ps ih =>
    intro b
    cases hb : b.busy with
    | true => rw [Block.runPins_busy p ps hb]; exact ih _
    | false => rw [Block.runPins_idle _ hb]; exact .inr hb

/-- An accepted operation of a block alone, over steps of its clock only, is the run of the accepting block. -/
theorem exec_alone {s : State} {i : Instr} {b : Block} {ps : List Pins} (h : s.aloneFor i b)
    (henv : s.env = clks .near ps) :
    ∃ t, exec i s = .next t ∧ t.near = ((b.accept i (programOf b.cfg i)).runPins ps).1 := by
  obtain ⟨hfar, hport, ⟨hget, hr, hb⟩, hcheck⟩ := h
  rw [hport] at hget
  have hsubmit : b.submit i (programOf b.cfg i) = b.accept i (programOf b.cfg i) := by
    simp [Block.submit, hb, hcheck]
  set a := b.accept i (programOf b.cfg i)
  set s1 := (s.set .near a).note
  have hexec : exec i s = .next (State.runWhile .near s1.env s1) := by
    simp [exec_eq_operate, State.operate, hport, hget, hr, hb, hsubmit, s1]
  have hrun := State.runWhile_clks_alone ps [] s1 hfar
  rw [List.append_nil, List.append_nil, show s1.near = a from rfl] at hrun
  refine ⟨_, hexec, ?_⟩
  rw [show s1.env = clks .near ps from henv, hrun]
  rcases a.runPins_rest ps with h2 | h2
  · rw [h2]; rfl
  · rw [State.runWhile_stop _ (show State.running { s1 with near := (a.runPins ps).1 } .near = false from h2)]

/-- While no CKSUM_COMPUTE runs, WSTATE is the next line's. -/
theorem Block.wstate_of_prog {b : Block} {l : Line} {rest : List Line} (hp : b.seq.prog = .run (l :: rest))
    (ho : b.seq.opv ≠ 0x0C#5) : b.wstate = l.wstate := by
  simp [Block.wstate, hp, ho]

/-- An idle block that meets the invariant has its timers at rest. -/
theorem Block.Inv.tmr_of_idle {b : Block} (h : b.Inv) (hb : b.busy = false) : b.tmr = .reset := by
  refine h.timersRest ?_
  cases hp : b.seq.prog with
  | idle => rfl
  | run ls => simp [Block.busy, hp] at hb

/-- What the accepted command's run keeps, told of the block it came to: the result is unfinished, DONE is clear, CLK is
where it was and the command is latched. -/
theorem Block.unfinished_of_standing {b b' : Block} {i : Instr} {prog : List Line}
    (h : b'.standing = (b.accept i prog).standing) :
    b'.regs.result.code = .none ∧ b'.event .done = false ∧ b'.out.sckO = b.out.sckO ∧ b'.seq.opv = i.opcode := by
  rw [Block.accept_standing] at h
  simp only [Block.standing, Prod.mk.injEq] at h
  obtain ⟨-, -, hop, -, hcode, hdone, hsck⟩ := h
  exact ⟨hcode, hdone, hsck, hop⟩

/-! ## The three parts of the statement -/

theorem programOf_wait (c : Config) (k : Wait) (arg : Half) (lvl : Bool) :
    programOf c (k.instr arg lvl) = waitProg k := by
  cases k <;> rfl

theorem opcode_wait (k : Wait) (arg : Half) (lvl : Bool) : (k.instr arg lvl).opcode ≠ 0x0C#5 := by
  cases k <;> simp [Wait.instr, Instr.opcode]

/-- A WAIT_* operation of a block alone whose awaited change never comes hangs (00_scope.md R13). -/
theorem exec_wait_hangs {k : Wait} {arg : Half} {lvl : Bool} {s : State} {b : Block} {ps : List Pins}
    (h : s.aloneFor (k.instr arg lvl) b) (hinv : b.Inv) (henv : s.env = clks .near ps)
    (hlen : b.delayCycles b.regs.prepoll ≤ ps.length)
    (hns : ∀ j, b.delayCycles b.regs.prepoll ≤ j → j < ps.length →
      ¬ k.seen ((b.hsStream ps).getD j false) ((b.hsStream ps).getD (j + 1) false)) :
    ∃ t, exec (k.instr arg lvl) s = .next t ∧ t.near.busy = true ∧ t.near.wstate = 5#4 ∧
      t.near.regs.result.code = .none ∧ t.near.event .done = false ∧ b.out.sameDrive t.near.out := by
  obtain ⟨t, hexec, hnear⟩ := exec_alone h henv
  obtain ⟨-, -, ⟨-, hr, hb⟩, -⟩ := h
  rw [programOf_wait] at hnear
  obtain ⟨hdel, hst, hdrive⟩ := Block.Delaying.runPins_unmet (b := b.accept (k.instr arg lvl) (waitProg k)) ps
    hr rfl hinv.hsTracked (Block.delaying_of_prog (hinv.tmr_of_idle hb) (Block.goto_prog _ _)) hns
  rw [← hnear] at hdel hst hdrive
  obtain ⟨hcode, hdone, -, hop⟩ := Block.unfinished_of_standing hst
  have hdel0 : t.near.Delaying .prepoll [.waitFinish k] 0 := by
    have hz : b.delayCycles b.regs.prepoll - ps.length = 0 := Nat.sub_eq_zero_of_le hlen
    rwa [← hz]
  cases hdel0 with | past hp =>
  exact ⟨t, hexec, hdel.busy, Block.wstate_of_prog hp (hop ▸ opcode_wait k arg lvl), hcode, hdone, hdrive⟩

/-- A framer operation comes over at most three opening lines and a prepoll to its first await, of ASSERTED
(42_framer.md R250 to R290; 41_handshake.md R220 to R222). -/
theorem programOf_framer (c : Config) (arg : Half) (lvl : Bool) {i : Instr}
    (hi : i ∈ [Instr.sendCmd arg lvl, .readResp arg lvl, .extPacket arg lvl, .rspReadCksum arg lvl,
      .rspWriteCksum arg lvl]) :
    ∃ pre rest, programOf c i = pre ++ .delay .prepoll :: .awaitHs true :: rest ∧ pre.length ≤ 3 ∧
      ∀ l ∈ pre, l.opens = true := by
  simp only [List.mem_cons, List.not_mem_nil, or_false] at hi
  rcases hi with rfl | rfl | rfl | rfl | rfl
  · exact ⟨[.clearAcc .acc, .driveHs true], _, rfl, by decide, by decide⟩
  · refine ⟨[.setCap, .driveOe false, .driveHs true], ?_⟩
    cases hv : c.rev with
    | revA => exact ⟨_, by rw [programOf, hv]; rfl, by decide, by decide⟩
    | revB => exact ⟨_, by rw [programOf, hv]; rfl, by decide, by decide⟩
  · exact ⟨[.clearAcc .accA, .driveHs true], _, rfl, by decide, by decide⟩
  · refine ⟨[.setN, .clearAcc .acc], ?_⟩
    cases hn : arg.toNat with
    | zero => exact ⟨_, by rw [programOf, hn]; rfl, by decide, by decide⟩
    | succ n => exact ⟨_, by rw [programOf, hn, rspReadCksumProg, List.range_succ_eq_map]; rfl, by decide, by decide⟩
  · refine ⟨[.setN], ?_⟩
    cases hv : c.rev with
    | revA => exact ⟨_, by rw [programOf, hv]; rfl, by decide, by decide⟩
    | revB => exact ⟨_, by rw [programOf, hv]; rfl, by decide, by decide⟩

theorem opcode_framer {arg : Half} {lvl : Bool} {i : Instr}
    (hi : i ∈ [Instr.sendCmd arg lvl, .readResp arg lvl, .extPacket arg lvl, .rspReadCksum arg lvl,
      .rspWriteCksum arg lvl]) : i.opcode ≠ 0x0C#5 := by
  simp only [List.mem_cons, List.not_mem_nil, or_false] at hi
  rcases hi with rfl | rfl | rfl | rfl | rfl <;> simp [Instr.opcode]

/-- A handshake line that stands DEASSERTED comes out of the synchroniser DEASSERTED. -/
theorem Block.hsStream_quiet {b : Block} {ps : List Pins} (hq : b.hsQuiet)
    (hps : ∀ p ∈ ps, p.hs = !b.cfg.hsAssert) {j : Nat} (hj : j < (b.hsStream ps).length) :
    (b.hsStream ps).getD j false = !b.cfg.hsAssert := by
  have hall : ∀ v ∈ b.hsStream ps, v = !b.cfg.hsAssert := by
    intro v hv
    simp only [Block.hsStream, List.mem_append, List.mem_reverse, List.mem_map] at hv
    rcases hv with hv | ⟨p, hp, rfl⟩
    · exact hq v hv
    · exact hps p hp
  rw [List.getD_eq_getElem _ _ hj]
  exact hall _ (List.getElem_mem hj)

/-- A framer operation of a block alone whose peer's handshake line stands DEASSERTED hangs at its first await. -/
theorem exec_framer_hangs {arg : Half} {lvl : Bool} {i : Instr} {s : State} {b : Block} {ps : List Pins}
    (hi : i ∈ [Instr.sendCmd arg lvl, .readResp arg lvl, .extPacket arg lvl, .rspReadCksum arg lvl,
      .rspWriteCksum arg lvl])
    (h : s.aloneFor i b) (hinv : b.Inv) (hq : b.hsQuiet) (henv : s.env = clks .near ps)
    (hps : ∀ p ∈ ps, p.hs = !b.cfg.hsAssert) :
    ∃ t, exec i s = .next t ∧ t.near.busy = true ∧ t.near.regs.result.code = .none ∧
      t.near.event .done = false ∧ t.near.out.sckO = b.out.sckO ∧
      (3 + b.delayCycles b.regs.prepoll ≤ ps.length → t.near.wstate = 1#4) := by
  obtain ⟨t, hexec, hnear⟩ := exec_alone h henv
  obtain ⟨-, -, ⟨-, hr, hb⟩, -⟩ := h
  obtain ⟨pre, rest, hprog, hthree, hpre⟩ := programOf_framer b.cfg arg lvl hi
  rw [hprog] at hnear
  have hunmet : ∀ j < ps.length, (Line.awaitHs true).unmet b.cfg ((b.hsStream ps).getD j false)
      ((b.hsStream ps).getD (j + 1) false) := by
    intro j hj
    have hpos := List.length_pos_of_ne_nil hinv.hsTracked.1
    rw [Line.unmet, Block.hsStream_quiet hq hps (by simp [Block.hsStream]; omega)]
    simp [hsLevel]
  obtain ⟨hbusy, hst, hend⟩ := Block.runPins_opens_unmet pre
    (b := b.accept i (pre ++ .delay .prepoll :: .awaitHs true :: rest)) ps hr rfl hinv.hsTracked
    (hinv.tmr_of_idle hb) hpre (Block.goto_prog _ _) hunmet
  rw [← hnear] at hbusy hst hend
  obtain ⟨hcode, hdone, hsck, hop⟩ := Block.unfinished_of_standing hst
  refine ⟨t, hexec, hbusy, hcode, hdone, hsck, fun hlen => ?_⟩
  cases hend (le_trans (Nat.add_le_add_right hthree _) hlen) with | past hp =>
  exact Block.wstate_of_prog hp (hop ▸ opcode_framer hi)

/-- Settles O29: an await whose change never comes is where the run stays, with all that an operation keeps while it
waits. -/
theorem waitHangsWithoutItsChange : Obligations.WaitHangsWithoutItsChange := by
  unfold Obligations.WaitHangsWithoutItsChange
  refine ⟨fun k arg lvl s b ps => exec_wait_hangs, fun arg lvl i s b ps hi => exec_framer_hangs hi, ?_⟩
  intro b p slip asserted rest hr hm hp
  have hseq := Block.clkStep_awaitHs p slip hr hm hp
  exact ⟨fun hmet => hseq.trans (if_pos hmet), fun hnot => hseq.trans (if_neg hnot)⟩

end Sys2Proof.Machine
end

section
/-! SUPPORT. The host port, one access at a time (10_state.md R40 to R59; 20_memory.md R94): an aligned access to a
register offset is that register's, what each write leaves of the build, and the register words field by field. -/

namespace Sys2Proof.Machine

/-! ## Where an access goes -/

theorem region_register (c : Config) {off : Nat} (h : off < 0x40) : region c off = .registers := by
  simp [region, h]

theorem region_buffer {c : Config} {off : Nat} (h0 : 0x400 ≤ off) (h1 : off < 0x400 + c.bufSize.bytes) :
    region c off = .buffer := by
  rw [region, if_neg (by omega), if_neg (by rw [bufOffset]; omega), if_pos (show off < bufOffset _ from h1)]

theorem accessOk_register (c : Config) {off : Nat} (h : off < 0x40 ∧ off % 4 = 0) : accessOk c off 4 = true := by
  simp [accessOk, region_register c h.1, h.2]

/-- An aligned word write to a register offset is the register's write. -/
theorem Block.access_write_register {b : Block} {addr : BitVec 12} (v : Word) (hr : b.rstN = true)
    (h : addr.toNat < 0x40 ∧ addr.toNat % 4 = 0) : b.access (.write addr 4 v) = b.writeReg addr.toNat v := by
  simp [Block.access, Block.hostWrite, hr, accessOk_register b.cfg h, region_register b.cfg h.1]

/-- An aligned word read of a register offset is the register's word. -/
theorem Block.hostRead_register {b : Block} {off : Nat} (hr : b.rstN = true) (h : off < 0x40 ∧ off % 4 = 0) :
    b.hostRead off 4 = b.readReg off := by
  simp [Block.hostRead, hr, accessOk_register b.cfg h, region_register b.cfg h.1]

/-- A write that is answered OKAY in the buffer is guarded by BUSY (10_state.md R41). -/
theorem Block.access_write_buffer {b : Block} {addr : BitVec 12} {n : Nat} (v : Word) (hr : b.rstN = true)
    (h0 : 0x400 ≤ addr.toNat) (h1 : addr.toNat < 0x400 + b.cfg.bufSize.bytes)
    (hok : b.hostOk addr.toNat n = true) :
    b.access (.write addr n v) = b.guarded { b with buf := b.buf.writeBytes addr.toNat v n } := by
  have hacc : accessOk b.cfg addr.toNat n = true := by simpa [Block.hostOk, hr] using hok
  simp [Block.access, Block.hostWrite, hr, hacc, region_buffer h0 h1]

theorem Block.guarded_of_busy {b : Block} (w : Block) (h : b.busy = true) :
    b.guarded w = b.raise .wrIgnored := if_pos h

theorem Block.guarded_of_idle {b : Block} (w : Block) (h : b.busy = false) : b.guarded w = w := by
  simp [Block.guarded, h]

/-- While BUSY a word written to CMD is dropped, whether it decodes or not (30_encoding.md R124). -/
theorem Block.submitWord_of_busy {b : Block} (w : Word) (h : b.busy = true) :
    b.submitWord w = b.raise .cmdIgnored := by
  unfold Block.submitWord
  split
  · exact if_pos h
  · exact if_pos h

/-! ## No event changes the build -/

theorem Block.cfg_guarded {b w : Block} (h : w.cfg = b.cfg) : (b.guarded w).cfg = b.cfg := by
  unfold Block.guarded
  split
  · rfl
  · exact h

theorem Block.cfg_submit (b : Block) (i : Instr) (prog : List Line) : (b.submit i prog).cfg = b.cfg := by
  rcases b.submit_cases i prog with ⟨-, h⟩ | ⟨-, -, h⟩ | ⟨-, -, h⟩ <;> rw [h] <;> rfl

theorem Block.cfg_submitWord (b : Block) (w : Word) : (b.submitWord w).cfg = b.cfg := by
  unfold Block.submitWord
  split
  · exact b.cfg_submit _ _
  · split <;> rfl

theorem Block.cfg_writeReg (b : Block) (off : Nat) (v : Word) : (b.writeReg off v).cfg = b.cfg := by
  unfold Block.writeReg
  split
  case h_1 => split <;> rfl  -- CTRL
  case h_2 => exact b.cfg_submitWord v  -- CMD
  case h_3 | h_4 | h_11 => rfl  -- EVENTS, IRQ_EN and the offsets that hold nothing a host writes
  all_goals exact Block.cfg_guarded rfl

theorem Block.cfg_hostWrite (b : Block) (off n : Nat) (v : Word) : (b.hostWrite off n v).cfg = b.cfg := by
  unfold Block.hostWrite
  split
  · rfl
  · split
    · rfl
    · split
      · exact Block.cfg_guarded rfl
      · exact b.cfg_writeReg off v
      · rfl

theorem Block.cfg_access (b : Block) (a : Access) : (b.access a).cfg = b.cfg := by
  cases a with
  | read addr n => rfl
  | write addr n v => exact b.cfg_hostWrite _ n v

theorem Block.cfg_clkStep (b : Block) (p : Pins) (slip : Option Level) : (b.clkStep p slip).cfg = b.cfg := by
  cases hr : b.rstN with
  | false => rw [Block.clkStep_reset p slip hr]; rfl
  | true => exact congrArg (·.1) (Block.settings_clkStep p slip hr)

theorem State.cfg_act (s : State) (b : Block) (e : Event) : (s.act b e).cfg = b.cfg := by
  cases e with
  | clk side p => exact b.cfg_clkStep _ _
  | host side a => exact b.cfg_access a
  | clkClear side p v => exact (Block.cfg_clkStep _ _ _).trans (b.cfg_hostWrite _ _ v)
  | rst side level => rfl

/-- An event leaves each block there, built as it was. -/
theorem State.get_apply_cfg {s : State} (e : Event) {side : Side} {b : Block} (h : s.get side = some b) :
    ∃ b', (s.apply e).get side = some b' ∧ b'.cfg = b.cfg := by
  by_cases hs : side = e.side
  · subst hs
    exact ⟨_, State.get_apply_same h, s.cfg_act b e⟩
  · exact ⟨b, (State.get_apply_ne hs).trans h, rfl⟩

/-! ## The register words, field by field

The lemmas on `++` rewrite from the outside in (↓): once simp has added up the widths inside, no sum is left to
match. -/

/-- CFG (10_state.md R45). -/
theorem cfgWord_fields (c : Config) :
    let w := cfgWord c
    w.getLsbD 0 = decide (c.role = .responder) ∧ w.getLsbD 1 = decide (c.rev = .revB) ∧
    w.getLsbD 2 = c.hsAssert ∧ w.extractLsb' 3 5 = 0#5 ∧ w.extractLsb' 8 4 = BitVec.ofNat 4 c.syncStages ∧
    w.extractLsb' 12 4 = 0#4 ∧ w.extractLsb' 16 16 = BitVec.ofNat 16 c.bufSize.bytes := by
  unfold cfgWord
  simp [↓BitVec.getLsbD_append, ↓BitVec.extractLsb'_append_eq_of_le, ↓BitVec.extractLsb'_append_eq_of_add_le]

/-- STATUS (10_state.md R48). -/
theorem Block.statusWord_fields (b : Block) :
    let w := b.statusWord
    w.getLsbD 0 = b.busy ∧ w.getLsbD 1 = b.out.dataOe ∧ w.getLsbD 2 = b.out.hsO ∧ w.getLsbD 3 = b.hsSample ∧
    w.getLsbD 4 = b.statusSck ∧ w.getLsbD 5 = b.dataSample ∧
    w.getLsbD 6 = (b.xp.armed && decide (b.cfg.role = .responder)) ∧
    w.getLsbD 7 = (b.xp.byteDone && decide (b.cfg.role = .responder)) ∧
    w.extractLsb' 8 3 = b.xp.bitcnt ∧ w.getLsbD 11 = false ∧ w.extractLsb' 12 4 = b.wstate ∧
    w.extractLsb' 16 5 = b.regs.statusOp ∧ w.extractLsb' 21 11 = 0#11 := by
  unfold Block.statusWord
  simp [↓BitVec.getLsbD_append, ↓BitVec.extractLsb'_append_eq_of_le, ↓BitVec.extractLsb'_append_eq_of_add_le]

/-- RESULT (10_state.md R51). -/
theorem Result.word_fields (r : Result) :
    r.word.extractLsb' 0 4 = r.code.bits ∧ r.word.extractLsb' 4 4 = 0#4 ∧ r.word.getLsbD 8 = r.isMatch ∧
    r.word.getLsbD 9 = r.isMatchB ∧ r.word.extractLsb' 10 6 = 0#6 ∧ r.word.extractLsb' 16 16 = r.count := by
  unfold Result.word
  simp [↓BitVec.getLsbD_append, ↓BitVec.extractLsb'_append_eq_of_le, ↓BitVec.extractLsb'_append_eq_of_add_le]

/-- CKSUM (10_state.md R58). -/
theorem Cksum.word_fields (x : Cksum) :
    x.word.extractLsb' 0 8 = x.calcA ∧ x.word.extractLsb' 8 8 = x.rxackA ∧
    x.word.extractLsb' 16 8 = x.calcB ∧ x.word.extractLsb' 24 8 = x.rxackB := by
  unfold Cksum.word
  simp [↓BitVec.extractLsb'_append_eq_of_le, ↓BitVec.extractLsb'_append_eq_of_add_le]

/-- A register of one field at bit 0 reads as the field, and 0 above it. -/
theorem setWidth_fields {k : Nat} (x : BitVec k) (h : k ≤ 32) :
    (x.setWidth 32).extractLsb' 0 k = x ∧ (x.setWidth 32).extractLsb' k (32 - k) = 0#(32 - k) := by
  constructor
  · rw [BitVec.extractLsb'_setWidth_of_le (by omega), BitVec.extractLsb'_eq_self]
  · ext i hi
    simp

/-- A word written to such a register reads back less the bits above the field. -/
theorem setWidth_extractLsb'_eq_and (v : Word) (k : Nat) :
    (v.extractLsb' 0 k).setWidth 32 = v &&& BitVec.ofNat 32 (2 ^ k - 1) := by
  apply BitVec.eq_of_getLsbD_eq
  intro i hi
  simp [-BitVec.getLsbD_eq_getElem, BitVec.getLsbD_ofNat, hi, Bool.and_comm]

/-- A host write to EVENTS clears the bits written as 1 and no other (10_state.md R49). -/
theorem Block.getLsbD_clearEvents (b : Block) (v : Word) {k : Nat} (hk : k < 5) :
    (b.clearEvents v).regs.events.getLsbD k = (b.regs.events.getLsbD k && !v.getLsbD k) := by
  simp [hk]

end Sys2Proof.Machine
end

section
/-! SUPPORT. The register file through the host port: ID and CFG, writes while BUSY and while idle, and the registers as
they read. -/

namespace Sys2Proof.Machine

/-! ## ID and CFG -/

theorem bufSize_bytes_lt (z : BufSize) : z.bytes < 2 ^ 16 := by cases z <;> decide

/-- Settles O12: CFG's fields hold the parameters without loss, and every event keeps the build. -/
theorem idAndCfgAreConstant : Obligations.IdAndCfgAreConstant := by
  unfold Obligations.IdAndCfgAreConstant
  refine ⟨fun b hr => Block.hostRead_register hr (by decide), fun b hr hwf => ?_,
    fun s e side b h => s.get_apply_cfg e h⟩
  have hread : b.hostRead 0x004 4 = cfgWord b.cfg := Block.hostRead_register hr (by decide)
  simp only [Config.wf, Bool.and_eq_true, decide_eq_true_eq] at hwf
  obtain ⟨hrole, hrev, hhs, hlow, hstages, hhigh, hsize⟩ := cfgWord_fields b.cfg
  simp only [hread]
  refine ⟨hrole, hrev, hhs, hlow, ?_, hhigh, ?_⟩
  · rw [hstages, BitVec.toNat_ofNat, Nat.mod_eq_of_lt (by omega)]
  · rw [hsize, BitVec.toNat_ofNat, Nat.mod_eq_of_lt (bufSize_bytes_lt _)]

/-! ## While BUSY -/

/-- DATA and the timing registers are guarded by BUSY (10_state.md R41). -/
theorem Block.writeReg_guarded (b : Block) (v : Word) :
    ∀ addr ∈ [0x020#12, 0x02C#12, 0x030#12, 0x034#12, 0x038#12, 0x03C#12],
      (addr.toNat < 0x40 ∧ addr.toNat % 4 = 0) ∧ ∃ w, b.writeReg addr.toNat v = b.guarded w := by
  simp only [List.forall_mem_cons, List.not_mem_nil, false_imp_iff, implies_true, and_true]
  exact ⟨⟨by decide, _, rfl⟩, ⟨by decide, _, rfl⟩, ⟨by decide, _, rfl⟩, ⟨by decide, _, rfl⟩, ⟨by decide, _, rfl⟩,
    ⟨by decide, _, rfl⟩⟩

theorem Block.readBytes_withProg (b : Block) (q : Prog) (off n : Nat) :
    ({ b with seq.prog := q } : Block).readBytes off n = b.readBytes off n := by
  induction n generalizing off with
  | zero => rfl
  | succ n ih => simp only [Block.readBytes, ih]

/-- No register but STATUS looks at the sequencer. -/
theorem Block.readReg_withProg (b : Block) (q : Prog) {off : Nat} (h : off ≠ 0x010) :
    ({ b with seq.prog := q } : Block).readReg off = b.readReg off := by
  unfold Block.readReg
  split
  case h_3 => exact absurd rfl h  -- STATUS
  all_goals rfl

theorem Block.hostRead_withProg (b : Block) (q : Prog) {off : Nat} (n : Nat) (h : off ≠ 0x010) :
    ({ b with seq.prog := q } : Block).hostRead off n = b.hostRead off n := by
  simp only [Block.hostRead, Block.readBytes_withProg, Block.readReg_withProg b q h]

/-- Settles O15: while BUSY the guarded targets and CMD only raise their event. -/
theorem writesWhileBusy : Obligations.WritesWhileBusy := by
  unfold Obligations.WritesWhileBusy
  intro b v hr hb
  refine ⟨fun addr ha => ?_, fun addr n h0 h1 hok => ?_, ?_, ?_, ?_, fun hv => ?_, fun addr n => ⟨rfl, fun ha => ?_⟩⟩
  · obtain ⟨hreg, w, hw⟩ := b.writeReg_guarded v addr ha
    rw [Block.access_write_register v hr hreg, hw, Block.guarded_of_busy w hb]
    rfl
  · rw [Block.access_write_buffer v hr h0 h1 hok, Block.guarded_of_busy _ hb]
    rfl
  · exact (Block.access_write_register v hr (by decide)).trans (Block.submitWord_of_busy v hb)
  · exact Block.access_write_register v hr (by decide)
  · exact Block.access_write_register v hr (by decide)
  · have hsoft : b.access (.write 0x008#12 4 v) = b.softReset :=
      (Block.access_write_register v hr (by decide)).trans (if_pos hv)
    rw [hsoft, Block.busy_softReset]
  · exact (b.hostRead_withProg .idle n fun h => ha (BitVec.eq_of_toNat_eq h)).symm

/-! ## While idle -/

/-- A register that takes the low k bits of the word written reads back as those bits. -/
theorem Block.access_write_readback {b b' : Block} {v : Word} {addr : BitVec 12} (k : Nat) (hr : b.rstN = true)
    (hreg : addr.toNat < 0x40 ∧ addr.toNat % 4 = 0) (hw : b.writeReg addr.toNat v = b') (hr' : b'.rstN = true)
    (hread : b'.readReg addr.toNat = (v.extractLsb' 0 k).setWidth 32) :
    b.access (.write addr 4 v) = b' ∧
      (b.access (.write addr 4 v)).hostRead addr.toNat 4 = v &&& BitVec.ofNat 32 (2 ^ k - 1) := by
  have hacc : b.access (.write addr 4 v) = b' := (Block.access_write_register v hr hreg).trans hw
  rw [hacc, Block.hostRead_register hr' hreg, hread, setWidth_extractLsb'_eq_and]
  exact ⟨rfl, rfl⟩

/-- Settles O16: each RW register by what its write makes of it and what it then reads as. -/
theorem idleRegisterWrites : Obligations.IdleRegisterWrites := by
  unfold Obligations.IdleRegisterWrites
  intro b v hr hb
  have hidle (w : Block) : b.guarded w = w := Block.guarded_of_idle w hb
  have hevents : b.access (.write 0x014#12 4 v) = b.clearEvents v := Block.access_write_register v hr (by decide)
  refine ⟨Block.access_write_readback 5 hr (by decide) rfl hr rfl,
    Block.access_write_readback 8 hr (by decide) (hidle _) hr rfl,
    Block.access_write_readback 16 hr (by decide) (hidle _) hr rfl,
    Block.access_write_readback 16 hr (by decide) (hidle _) hr rfl,
    Block.access_write_readback 16 hr (by decide) (hidle _) hr rfl,
    Block.access_write_readback 16 hr (by decide) (hidle _) hr rfl,
    Block.access_write_readback 16 hr (by decide) (hidle _) hr rfl, ⟨?_, fun k hk => ?_⟩, ?_, fun hv => ?_,
    fun addr n => rfl⟩
  · rw [hevents]
    rfl
  · rw [hevents, Block.getLsbD_clearEvents b v hk]
  · have hro : ∀ addr ∈ [0x000#12, 0x004#12, 0x010#12, 0x01C#12, 0x024#12, 0x028#12],
        (addr.toNat < 0x40 ∧ addr.toNat % 4 = 0) ∧ b.writeReg addr.toNat v = b := by
      simp only [List.forall_mem_cons, List.not_mem_nil, false_imp_iff, implies_true, and_true]
      exact ⟨⟨by decide, rfl⟩, ⟨by decide, rfl⟩, ⟨by decide, rfl⟩, ⟨by decide, rfl⟩, ⟨by decide, rfl⟩,
        ⟨by decide, rfl⟩⟩
    intro addr ha
    obtain ⟨hreg, hw⟩ := hro addr ha
    exact ⟨(Block.access_write_register v hr hreg).trans hw, by simp [Block.hostOk, accessOk_register b.cfg hreg]⟩
  · exact (Block.access_write_register v hr (by decide)).trans (if_neg (ne_true_of_eq_false hv))

/-! ## The registers as they read -/

/-- STATUS.WSTATE's lines of XferI and AwaitByte, and where b takes their byte (41_handshake.md R222, R226). -/
def Line.transfers (l : Line) : Prop :=
  (∃ v, l = .loadSh v) ∨ (∃ used, l = .takeDone used) ∨
    l ∈ [Line.sckLow, .putBit, .sckHigh, .takeBit .wr, .takeBit .rd, .shiftBit, .countBit, .hold, .awaitByte, .takeSh]

theorem Line.wstate_of_transfers {l : Line} (h : l.transfers) : l.wstate = 3#4 := by
  obtain ⟨v, rfl⟩ | ⟨used, rfl⟩ | h := h
  · rfl
  · rfl
  · simp only [List.mem_cons, List.not_mem_nil, or_false] at h
    rcases h with rfl | rfl | rfl | rfl | rfl | rfl | rfl | rfl | rfl | rfl <;> rfl

/-- At a line that is no wait of R48, WSTATE is 0 (log 13). -/
theorem Line.wstate_of_no_wait {l : Line} (ht : ¬ l.transfers) (ha : ∀ a, l ≠ .awaitHs a) (hd : ∀ d, l ≠ .delay d)
    (hk : ∀ k, l ≠ .waitFinish k) : l.wstate = 0#4 := by
  cases l with
  | awaitHs a => exact absurd rfl (ha a)
  | delay d => exact absurd rfl (hd d)
  | waitFinish k => exact absurd rfl (hk k)
  | loadSh v => exact absurd (.inl ⟨v, rfl⟩) ht
  | takeDone used => exact absurd (.inr (.inl ⟨used, rfl⟩)) ht
  | takeBit d => cases d <;> exact absurd (.inr (.inr (by decide))) ht
  | sckLow | putBit | sckHigh | shiftBit | countBit | hold | awaitByte | takeSh =>
    exact absurd (.inr (.inr (by decide))) ht
  | _ => rfl

theorem Line.wstate_le (l : Line) : l.wstate.toNat ≤ 6 := by
  cases l with
  | awaitHs a => cases a <;> decide
  | _ => exact of_decide_eq_true rfl

theorem Block.wstate_of_idle {b : Block} (h : b.busy = false) : b.wstate = 0#4 := by
  cases hp : b.seq.prog with
  | idle => simp [Block.wstate, hp]
  | run ls => simp [Block.busy, hp] at h

/-- In CKSUM_COMPUTE, WSTATE is 6 once its line has set it (43_checksum.md R305). -/
theorem Block.wstate_of_cksumCompute {b : Block} {ls : List Line} (hp : b.seq.prog = .run ls) (hls : ls ≠ [])
    (ho : b.seq.opv = 0x0C#5) : b.wstate = if Line.showCompute ∈ ls then 0#4 else 6#4 := by
  cases ls with
  | nil => exact absurd rfl hls
  | cons l rest => simp only [Block.wstate, hp, ho, if_true]

theorem Block.wstate_le (b : Block) : b.wstate.toNat ≤ 6 := by
  cases hp : b.seq.prog with
  | idle => simp [Block.wstate, hp]
  | run ls =>
    cases ls with
    | nil => simp [Block.wstate, hp]
    | cons l rest =>
      by_cases ho : b.seq.opv = 0x0C#5
      · rw [Block.wstate_of_cksumCompute hp (by simp) ho]
        split <;> decide
      · rw [Block.wstate_of_prog hp ho]
        exact l.wstate_le

/-- Settles O20: the word's fields, and WSTATE by the next line. -/
theorem statusFields : Obligations.StatusFields := by
  unfold Obligations.StatusFields
  intro b hr
  have hread : b.hostRead 0x010 4 = b.statusWord := Block.hostRead_register hr (by decide)
  obtain ⟨h0, h1, h2, h3, h4, h5, h6, h7, hcnt, h11, hws, hop, hhigh⟩ := b.statusWord_fields
  simp only [hread]
  refine ⟨h0, h1, h2, h3, fun hrole => ?_, fun hrole => ?_, h5, hcnt, h11, hws, hop, hhigh, b.wstate_le,
    Block.wstate_of_idle, fun l rest hp ho => ?_, fun ls => Block.wstate_of_cksumCompute⟩
  · rw [h4, h6, h7]
    simp [hrole, Block.statusSck]
  · rw [h4, h6, h7]
    simp [hrole, Block.statusSck]
  · rw [Block.wstate_of_prog hp ho]
    refine ⟨?_, ?_, Line.wstate_of_transfers, ?_, ?_, Line.wstate_of_no_wait⟩
    · rintro rfl; rfl
    · rintro rfl; rfl
    · rintro ⟨d, rfl⟩; rfl
    · rintro ⟨k, rfl⟩; rfl

/-- Settles O59: each register's word, field by field. -/
theorem registerReads : Obligations.RegisterReads := by
  unfold Obligations.RegisterReads
  intro b hr
  have hevents : b.hostRead 0x014 4 = b.regs.events.setWidth 32 := Block.hostRead_register hr (by decide)
  have hresult : b.hostRead 0x01C 4 = b.regs.result.word := Block.hostRead_register hr (by decide)
  have hcksum : b.hostRead 0x024 4 = b.regs.cksum.word := Block.hostRead_register hr (by decide)
  have hadvlen : b.hostRead 0x028 4 = b.regs.advlen.setWidth 32 := Block.hostRead_register hr (by decide)
  have hevent (e : EventBit) : (b.regs.events.setWidth 32).getLsbD e.index = b.event e := by
    cases e <;> simp [Block.event, EventBit.index]
  obtain ⟨hcode, hrest⟩ := b.regs.result.word_fields
  simp only [hevents, hresult, hcksum, hadvlen]
  refine ⟨⟨hevent .done, hevent .err, hevent .cmdIgnored, hevent .strayClk, hevent .wrIgnored,
      (setWidth_fields b.regs.events (by decide)).2⟩, ⟨?_, hrest⟩, b.regs.cksum.word_fields,
    setWidth_fields b.regs.advlen (by decide), Block.hostRead_register hr (by decide),
    Block.hostRead_register hr (by decide)⟩
  rw [hcode]
  cases b.regs.result.code <;> rfl

end Sys2Proof.Machine
end

section
/-! SUPPORT. What stands right after reset (10_state.md R67): the values of a clk cycle with rst_n = 0, and the
invariant. -/

namespace Sys2Proof.Machine

/-- Settles O9: each entry is its field of Block.reset. -/
theorem rstNGivesResetValues : Obligations.RstNGivesResetValues := by
  unfold Obligations.RstNGivesResetValues
  intro b p hr
  rw [Block.clkStep_reset p none hr]
  refine ⟨rfl, rfl, ?_, rfl, rfl, rfl, rfl, rfl, rfl, rfl, rfl, rfl, rfl, rfl, fun hv => ?_, fun hv => ?_, rfl, rfl,
    rfl, rfl, rfl, rfl, fun v hv => List.eq_of_mem_replicate hv, fun v hv => List.eq_of_mem_replicate hv,
    fun v hv => List.eq_of_mem_replicate hv, rfl, rfl, rfl⟩
  · simp [Block.irq, Block.hardReset, Block.reset, Regs.reset]
  · simp [Block.hardReset, Block.reset, Regs.reset, hv]
  · simp [Block.hardReset, Block.reset, Regs.reset, hv]

/-- A synchroniser of a well-formed build that holds one level puts it out. -/
theorem lastStage_replicate {n : Nat} (h : 1 ≤ n) (v : Level) : lastStage (List.replicate n v) = v := by
  obtain ⟨m, rfl⟩ : ∃ m, n = m + 1 := ⟨n - 1, by omega⟩
  rw [lastStage, List.getLastD_eq_getLast?, List.getLast?_replicate]
  simp

/-- A block right after reset meets the invariant: it is idle, and each chain holds the level its detector remembers. -/
theorem Block.inv_reset {c : Config} (h : c.wf = true) (level : Level) (epoch : Epoch) :
    (Block.reset c level epoch).Inv := by
  have hwf := h
  simp only [Config.wf, Bool.and_eq_true, decide_eq_true_eq] at hwf
  exact {
    cfgWf := h
    bufWf := rfl
    bufWithin := rfl
    hsStages := List.length_replicate
    dataStages := List.length_replicate
    sckStages := List.length_replicate
    hsPrevTracks := (lastStage_replicate hwf.1 _).symm
    sckPrevTracks := (lastStage_replicate hwf.1 _).symm
    running := nofun
    initiator := fun _ => ⟨rfl, rfl, by simp [Block.event, Block.reset, Regs.reset]⟩
    responder := fun _ => rfl
    legal := nofun
    capBound := nofun
    timersRest := fun _ => rfl
    holdRest := fun _ => rfl
    halves := rfl
    midRuns := nofun
    oneStep := fun _ => rfl }

/-- A bus right after reset meets the invariant: DATA is released on both sides. -/
theorem State.inv_resetWith {cn : Config} {cf : Option Config} (hn : cn.wf = true)
    (hf : ∀ c, cf = some c → c.wf = true) : (State.resetWith cn cf).Inv := by
  have hquiet : (State.resetWith cn cf).contending = false := by cases cf <;> rfl
  refine ⟨Block.inv_reset hn _ _, fun f h => ?_, fun h => absurd (hquiet.symm.trans h) Bool.false_ne_true, rfl,
    fun f h => ?_⟩
  · obtain ⟨c, hc, rfl⟩ := Option.map_eq_some_iff.mp h
    exact Block.inv_reset (hf c hc) _ _
  · obtain ⟨c, -, rfl⟩ := Option.map_eq_some_iff.mp h
    rfl

/-- Settles O57: State.reset is the bus of the two default builds. -/
theorem resetMeetsInvariant : Obligations.ResetMeetsInvariant := by
  unfold Obligations.ResetMeetsInvariant
  refine ⟨State.inv_resetWith (by decide) fun c hc => ?_, fun cn cf => State.inv_resetWith⟩
  cases hc
  decide

end Sys2Proof.Machine
end

section
/-! SUPPORT. What a step of the clock makes of EVENTS: it sets some bits, the same ones whatever EVENTS held, and
EVENTS bears on nothing else (10_state.md R49; 60_exceptions.md R341). -/

namespace Sys2Proof.Machine

/-! ## A step that only sets events -/

/-- The block with other events. -/
def Block.withEvents (b : Block) (ev : BitVec 5) : Block := { b with regs.events := ev }

@[simp] theorem Block.withEvents_cfg (b : Block) (ev : BitVec 5) : (b.withEvents ev).cfg = b.cfg := rfl
@[simp] theorem Block.withEvents_xp (b : Block) (ev : BitVec 5) : (b.withEvents ev).xp = b.xp := rfl
@[simp] theorem Block.withEvents_sync (b : Block) (ev : BitVec 5) : (b.withEvents ev).sync = b.sync := rfl

/-- At `b`, the change `f` sets events that do not depend on EVENTS, and depends on EVENTS in nothing else. -/
def Block.OnlySets (f : Block → Block) (b : Block) : Prop :=
  ∃ m, ∀ ev, f (b.withEvents ev) = (f b).withEvents (ev ||| m)

/-- A change that has nothing to do with EVENTS sets none. -/
theorem Block.OnlySets.of_blind {f : Block → Block} {b : Block}
    (h : ∀ ev, f (b.withEvents ev) = (f b).withEvents ev) : Block.OnlySets f b :=
  ⟨0#5, fun ev => by rw [h, BitVec.or_zero]⟩

theorem Block.OnlySets.comp {f g : Block → Block} {b : Block} (hg : Block.OnlySets g (f b))
    (hf : Block.OnlySets f b) : Block.OnlySets (fun x => g (f x)) b := by
  obtain ⟨m, hm⟩ := hf
  obtain ⟨m', hm'⟩ := hg
  exact ⟨m ||| m', fun ev => by simp only [hm, hm', BitVec.or_assoc]⟩

/-- A choice that does not look at EVENTS. -/
theorem Block.OnlySets.ite {P : Block → Prop} [DecidablePred P] {f g : Block → Block} {b : Block}
    (hP : ∀ ev, P (b.withEvents ev) ↔ P b) (hf : Block.OnlySets f b) (hg : Block.OnlySets g b) :
    Block.OnlySets (fun x => if P x then f x else g x) b := by
  by_cases h : P b
  · obtain ⟨m, hm⟩ := hf
    exact ⟨m, fun ev => by simp only [hP, h, if_true, hm]⟩
  · obtain ⟨m, hm⟩ := hg
    exact ⟨m, fun ev => by simp only [hP, h, if_false, hm]⟩

/-! ## The parts of a step -/

theorem Block.goto_withEvents (b : Block) (rest : List Line) (ev : BitVec 5) :
    (b.withEvents ev).goto rest = (b.goto rest).withEvents ev := by
  have hdrop : (b.withEvents ev).dropZero rest = b.dropZero rest :=
    Block.dropZero_congr (fun d => by cases d <;> rfl) rest
  unfold Block.goto
  rw [hdrop]
  rfl

/-- A change that has nothing to do with EVENTS, and on to the lines `rest`. -/
theorem Block.OnlySets.goto {f : Block → Block} {b : Block} (rest : List Line)
    (h : ∀ ev, f (b.withEvents ev) = (f b).withEvents ev) : Block.OnlySets (fun x => (f x).goto rest) b :=
  .of_blind fun ev => (congrArg (·.goto rest) (h ev)).trans ((f b).goto_withEvents rest ev)

theorem Block.onlySets_raise (b : Block) (e : EventBit) : Block.OnlySets (·.raise e) b :=
  ⟨e.mask, fun _ => rfl⟩

/-- finish sets DONE and, for an error, ERR (60_exceptions.md R331). -/
theorem Block.onlySets_finish (b : Block) (c : ResultCode) : Block.OnlySets (·.finish c) b := by
  have hdone : Block.OnlySets (fun x => ({ x with regs.result.code := c, seq.prog := .idle } : Block).raise .done) b :=
    ⟨EventBit.done.mask, fun _ => rfl⟩
  have herr := (Block.onlySets_raise _ .err).comp hdone
  unfold Block.finish
  cases c.isError with
  | false => exact hdone
  | true => exact herr

theorem Block.onlySets_delayCycle (b : Block) (t : Half) (stay rest : List Line) :
    Block.OnlySets (·.delayCycle t stay rest) b :=
  .ite (P := fun x => x.tmr.pcnt < x.regs.tickdiv) (fun _ => .rfl) (.of_blind fun _ => rfl) <|
    .ite (P := fun x => x.tmr.dcnt + 1#16 < t) (fun _ => .rfl) (.of_blind fun _ => rfl)
      (.goto rest fun _ => rfl)

theorem Block.onlySets_holdCycle (b : Block) (stay rest : List Line) :
    Block.OnlySets (·.holdCycle stay rest) b :=
  .ite (P := fun x => x.xp.hph < x.regs.clkdiv) (fun _ => .rfl) (.of_blind fun _ => rfl)
    (.goto rest fun _ => rfl)

theorem Block.onlySets_runLine (b : Block) (l : Line) (rest : List Line) :
    Block.OnlySets (·.runLine l rest) b := by
  cases l with
  | delay d =>
    obtain ⟨m, hm⟩ := b.onlySets_delayCycle (b.ticks d) (.delay d :: rest) rest
    exact ⟨m, fun ev => by
      have hticks : (b.withEvents ev).ticks d = b.ticks d := by cases d <;> rfl
      simp only [Block.runLine, hticks, hm]⟩
  | hold => exact b.onlySets_holdCycle _ rest
  | awaitHs a =>
    exact .ite (P := fun x => x.hsSample = hsLevel x.cfg a) (fun _ => .rfl) (.goto rest fun _ => rfl)
      (.of_blind fun _ => rfl)
  | awaitByte =>
    exact .ite (P := fun x => x.xp.byteDone = true) (fun _ => .rfl) (.goto rest fun _ => rfl) (.of_blind fun _ => rfl)
  | waitFinish k =>
    exact .ite (P := fun x => x.waitMet k = true) (fun _ => by cases k <;> exact .rfl) (b.onlySets_finish .ok)
      (.of_blind fun _ => rfl)
  | testOverrun =>
    exact .ite (P := fun x => x.seq.locs.cap < x.seq.locs.len) (fun _ => .rfl) (.goto overrunTail fun _ => rfl)
      (.of_blind (b.goto_withEvents (readRespTail b.seq.locs.len.toNat)))
  | driveOeFinish v => exact (Block.onlySets_finish _ .ok).comp (f := (·.driveOe v)) (.of_blind fun _ => rfl)
  | driveHsFinish =>
    exact (Block.onlySets_finish _ .ok).comp (f := fun x => x.driveHs x.seq.lvlv) (.of_blind fun _ => rfl)
  | finish c => exact b.onlySets_finish c
  | finishMatchB => exact b.onlySets_finish (matchCode (decide (b.seq.locs.b = b.seq.locs.acc)))
  | finishMatchData => exact b.onlySets_finish (matchCode (decide (b.seq.locs.acc = b.regs.data)))
  | loadSh v => cases v <;> exact .goto rest fun _ => rfl
  | armSh v => cases v <;> exact .goto rest fun _ => rfl
  | driveBit0 v => cases v <;> exact .goto rest fun _ => rfl
  | takeBit d => cases d <;> exact .goto rest fun _ => rfl
  | xportSck =>
    exact .goto rest fun ev => by
      simp only [Block.withEvents_cfg]
      split <;> rfl
  | _ => exact .goto rest fun _ => rfl

theorem Block.onlySets_lineStep (b : Block) : Block.OnlySets Block.lineStep b := by
  cases hp : b.seq.prog with
  | idle => exact .of_blind fun ev => by rw [Block.lineStep_idle hp, Block.lineStep_idle (b := b.withEvents ev) hp]
  | run ls =>
    cases ls with
    | nil =>
      obtain ⟨m, hm⟩ := b.onlySets_finish .ok
      exact ⟨m, fun ev => by rw [Block.lineStep_nil hp, Block.lineStep_nil (b := b.withEvents ev) hp]; exact hm ev⟩
    | cons l rest =>
      obtain ⟨m, hm⟩ := b.onlySets_runLine l rest
      exact ⟨m, fun ev => by rw [Block.lineStep_cons hp, Block.lineStep_cons (b := b.withEvents ev) hp]; exact hm ev⟩

theorem Block.goesOn_withEvents (b : Block) (ev : BitVec 5) : (b.withEvents ev).goesOn = b.goesOn := rfl

theorem Block.onlySets_seqStep (b : Block) : Block.OnlySets Block.seqStep b := by
  obtain ⟨m, hm⟩ := b.onlySets_lineStep
  refine ⟨m, fun ev => ?_⟩
  rw [Block.seqStep, Block.seqStep, hm, Block.goesOn_withEvents]
  rfl

/-- The engine's falling edge drives the line; EVENTS has no part in it. -/
theorem Block.onlySets_engineFall (b : Block) : Block.OnlySets Block.engineFall b :=
  .ite (P := fun x => x.out.dataOe = true) (fun _ => .rfl) (.of_blind fun _ => rfl) (.of_blind fun _ => rfl)

/-- The engine's rising edge sets STRAY_CLK if it is not armed (40_transport.md R174). -/
theorem Block.onlySets_engineRise (b : Block) : Block.OnlySets Block.engineRise b := by
  refine ⟨if b.xp.armed then 0#5 else EventBit.strayClk.mask, fun ev => ?_⟩
  unfold Block.engineRise
  simp only [Block.withEvents_xp, Block.withEvents_sync]
  by_cases h : b.xp.armed = true
  · simp only [h, if_true, BitVec.or_zero]
    split <;> simp only [Block.withEvents, h]
  · simp only [h]
    split <;> rfl

theorem Block.onlySets_edgeEngine (b : Block) : Block.OnlySets Block.edgeEngine b := by
  have hedge : Block.OnlySets (fun x => if x.sync.sckPrev && !x.sckSample then x.engineFall
      else if !x.sync.sckPrev && x.sckSample then x.engineRise else x) b :=
    .ite (fun _ => .rfl) b.onlySets_engineFall (.ite (fun _ => .rfl) b.onlySets_engineRise (.of_blind fun _ => rfl))
  unfold Block.edgeEngine
  cases hrole : b.cfg.role with
  | initiator => exact .of_blind fun ev => by simp only [Block.withEvents_cfg, hrole]
  | responder =>
    obtain ⟨m, hm⟩ := hedge
    refine ⟨m, fun ev => ?_⟩
    simp only [Block.withEvents_cfg, hrole]
    exact congrArg (fun x : Block => { x with sync.sckPrev := b.sckSample }) (hm ev)

/-- A step of the clock out of reset only sets events. -/
theorem Block.onlySets_clkStep {b : Block} (p : Pins) (slip : Option Level) (hr : b.rstN = true) :
    Block.OnlySets (·.clkStep p slip) b := by
  cases hm : b.seq.mid with
  | true =>
    obtain ⟨m, h⟩ := (Block.onlySets_seqStep _).comp (b := b) (f := (·.redraw slip)) (.of_blind fun _ => rfl)
    exact ⟨m, fun ev => by
      simpa only [Block.clkStep_mid p slip hr hm, Block.clkStep_mid (b := b.withEvents ev) p slip hr hm] using h ev⟩
  | false =>
    have hbegin : Block.OnlySets (·.syncShift p slip) b := .of_blind fun _ => rfl
    have hlatch (x : Block) : Block.OnlySets Block.latchPrev x := .of_blind fun _ => rfl
    obtain ⟨m, h⟩ := (hlatch _).comp ((Block.onlySets_seqStep _).comp ((Block.onlySets_edgeEngine _).comp hbegin))
    exact ⟨m, fun ev => by
      simpa only [Block.clkStep_begins p slip hr hm, Block.clkStep_begins (b := b.withEvents ev) p slip hr hm]
        using h ev⟩

/-! ## The host's clear in the same step -/

theorem Block.event_withEvents_or (b : Block) (ev m : BitVec 5) (e : EventBit) :
    (b.withEvents (ev ||| m)).event e = (ev.getLsbD e.index || m.getLsbD e.index) :=
  BitVec.getLsbD_or

/-- Settles O18: the step sets the same events after the clear as before it. -/
theorem hardwareSetWinsOverClear : Obligations.HardwareSetWinsOverClear := by
  unfold Obligations.HardwareSetWinsOverClear
  intro b p v slip hr
  obtain ⟨m, hm⟩ := Block.onlySets_clkStep p slip hr
  have hclear : b.clkStepClear p v slip = (b.clkStep p slip).withEvents ((b.clearEvents v).regs.events ||| m) :=
    (congrArg (·.clkStep p slip) (Block.access_write_register (addr := 0x014#12) v hr (by decide))).trans (hm _)
  have hzero : ({ b with regs.events := 0#5 } : Block).clkStep p slip = (b.clkStep p slip).withEvents (0#5 ||| m) :=
    hm 0#5
  refine ⟨fun e => ?_, by rw [hclear]; rfl⟩
  have hk : e.index < 5 := by cases e <;> decide
  rw [hclear, hzero, Block.event_withEvents_or, Block.event_withEvents_or, Block.getLsbD_clearEvents b v hk,
    BitVec.getLsbD_zero, Bool.false_or, Bool.or_comm, Block.event]

end Sys2Proof.Machine
end

section
/-! SUPPORT. The host port by regions of the window (20_memory.md R92 to R97): which accesses are answered OKAY, what a
reserved offset does, and in which order the bytes of a buffer access stand. -/

namespace Sys2Proof.Machine

/-! ## Widths and alignments -/

/-- Out of reset the host port answers OKAY exactly for the accesses the map allows. -/
theorem Block.hostOk_of_rstN {b : Block} (hr : b.rstN = true) (off n : Nat) : b.hostOk off n = accessOk b.cfg off n := by
  simp [Block.hostOk, hr]

theorem region_reserved {c : Config} {off : Nat}
    (h : (0x040 ≤ off ∧ off < 0x400) ∨ 0x400 + c.bufSize.bytes ≤ off) : region c off = .reserved := by
  rw [region, if_neg (by omega)]
  by_cases h0 : off < 0x400
  · exact if_pos (show off < bufOffset 0 from h0)
  · have h1 : ¬ off < 0x400 + c.bufSize.bytes := by omega
    rw [if_neg (show ¬ off < bufOffset 0 from h0), if_neg (show ¬ off < bufOffset _ from h1)]

/-- In the buffer: 1, 2 or 4 bytes, aligned to the width and within the buffer (20_memory.md R94). -/
theorem accessOk_buffer {c : Config} {off : Nat} (n : Nat) (h : 0x400 ≤ off ∧ off < 0x400 + c.bufSize.bytes) :
    accessOk c off n = true ↔
      (n = 1 ∨ n = 2 ∨ n = 4) ∧ off % n = 0 ∧ off + n ≤ 0x400 + c.bufSize.bytes := by
  simp only [accessOk, region_buffer h.1 h.2, Bool.and_eq_true, Bool.or_eq_true, decide_eq_true_eq, and_assoc, or_assoc]
  rfl

theorem region_outside {c : Config} {off : Nat} (h : ¬ (0x400 ≤ off ∧ off < 0x400 + c.bufSize.bytes)) :
    region c off = .registers ∨ region c off = .reserved := by
  by_cases h0 : off < 0x40
  · exact .inl (region_register c h0)
  · exact .inr (region_reserved (by omega))

/-- Outside the buffer: aligned words only (20_memory.md R92, R94). -/
theorem accessOk_outside {c : Config} {off : Nat} (n : Nat) (h : ¬ (0x400 ≤ off ∧ off < 0x400 + c.bufSize.bytes)) :
    accessOk c off n = true ↔ n = 4 ∧ off % 4 = 0 := by
  rcases region_outside h with h1 | h1 <;> simp [accessOk, h1]

/-- Settles O13: the map's table region by region; an access that is no OKAY one is stopped before its region is looked
at. -/
theorem accessWidthAndAlignment : Obligations.AccessWidthAndAlignment := by
  unfold Obligations.AccessWidthAndAlignment
  intro b addr n v hr off inBuf
  rw [Block.hostOk_of_rstN hr]
  refine ⟨?_, fun h => ⟨?_, rfl, ?_⟩⟩
  · by_cases hb : inBuf
    · rw [accessOk_buffer n hb]
      simp only [hb, true_and, not_true, false_and, or_false]
      refine and_congr_right fun hn => and_congr_right fun _ => ?_
      omega
    · rw [accessOk_outside n hb]
      simp [hb]
  · simp [Block.hostRead, hr, h]
  · simp [Block.access, Block.hostWrite, hr, show accessOk b.cfg addr.toNat n = false from h]

/-! ## Reserved offsets -/

/-- Settles O14: what the region of an allowed access and the table of widths say of a reserved offset. -/
theorem reservedOffsets : Obligations.ReservedOffsets := by
  unfold Obligations.ReservedOffsets
  intro b addr v hr off hoff
  have hregion : region b.cfg addr.toNat = .reserved := region_reserved hoff
  have hok (n : Nat) : accessOk b.cfg off n = true ↔ n = 4 ∧ off % 4 = 0 := accessOk_outside n (by omega)
  simp only [Block.hostOk_of_rstN hr]
  refine ⟨fun halign => ?_, fun n hn => by rwa [← hok n, Bool.not_eq_true] at hn⟩
  have h4 : accessOk b.cfg addr.toNat 4 = true := (hok 4).mpr ⟨rfl, halign⟩
  exact ⟨by simp [Block.hostRead, hr, off, h4, hregion],
    by simp [Block.access, Block.hostWrite, hr, h4, hregion], h4⟩

/-! ## The bytes of a buffer access -/

/-- Byte k of a little-endian write is at offset k (20_memory.md R95). -/
theorem Memory.readByte_writeBytes_inside (e : Epoch) (n : Nat) :
    ∀ (off : Nat) (v : Word) (m : Memory) {k : Nat}, k < n →
      (m.writeBytes off v n).readByte e (off + k) = v.extractLsb' (8 * k) 8 := by
  induction n with
  | zero => exact fun _ _ _ _ h => absurd h (Nat.not_lt_zero _)
  | succ n ih =>
    intro off v m k hk
    rw [Memory.writeBytes]
    cases k with
    | zero => rw [Memory.readByte_writeBytes_outside _ _ _ _ _ _ (by omega), Nat.add_zero, Memory.readByte_writeByte_same]
    | succ k =>
      rw [show off + (k + 1) = off + 1 + k by omega, ih _ _ _ (by omega)]
      ext i hi
      simp [show 8 + (8 * k + i) = 8 * (k + 1) + i by omega]

/-- Bit by bit, a little-endian read is its bytes, and 0 above them (20_memory.md R95). -/
theorem Block.getLsbD_readBytes (b : Block) (n : Nat) :
    ∀ (off : Nat) {i : Nat}, i < 32 → (b.readBytes off n).getLsbD i =
      (decide (i < 8 * n) && (b.buf.readByte b.bufEpoch (off + i / 8)).getLsbD (i % 8)) := by
  induction n with
  | zero => intro off i hi; simp [Block.readBytes]
  | succ n ih =>
    intro off i hi
    rw [Block.readBytes]
    rcases Nat.lt_or_ge i 8 with h8 | h8
    · simp [-BitVec.getLsbD_eq_getElem, BitVec.getLsbD_shiftLeft, BitVec.getLsbD_setWidth, hi, h8, Nat.div_eq_of_lt h8,
        Nat.mod_eq_of_lt h8, show i < 8 * (n + 1) by omega]
    · have hb : (b.buf.readByte b.bufEpoch off).getLsbD i = false := BitVec.getLsbD_of_ge _ _ h8
      rw [BitVec.getLsbD_or, BitVec.getLsbD_shiftLeft, BitVec.getLsbD_setWidth, ih _ (by omega), hb,
        show off + 1 + (i - 8) / 8 = off + i / 8 by omega, show (i - 8) % 8 = i % 8 by omega]
      simp [hi, show ¬ i < 8 by omega, show (i - 8 < 8 * n) = (i < 8 * (n + 1)) by simp; omega]

/-- Byte k of a little-endian read is from offset k. -/
theorem Block.extractLsb'_readBytes (b : Block) {n : Nat} (hn : n ≤ 4) (off : Nat) {k : Nat} (hk : k < n) :
    (b.readBytes off n).extractLsb' (8 * k) 8 = b.buf.readByte b.bufEpoch (off + k) := by
  apply BitVec.eq_of_getLsbD_eq
  intro i hi
  rw [BitVec.getLsbD_extractLsb', Block.getLsbD_readBytes b n off (by omega),
    show (8 * k + i) / 8 = k by omega, show (8 * k + i) % 8 = i by omega]
  simp [hi, show 8 * k + i < 8 * n by omega]

/-- n bytes, zero-extended (20_memory.md R95). -/
theorem Block.readBytes_lt (b : Block) {n : Nat} (off : Nat) : (b.readBytes off n).toNat < 2 ^ (8 * n) := by
  refine Nat.lt_pow_two_of_testBit _ fun i hi => ?_
  change (b.readBytes off n).getLsbD i = false
  by_cases h : i < 32
  · simp [Block.getLsbD_readBytes b n off h, show ¬ i < 8 * n by omega]
  · exact BitVec.getLsbD_of_ge _ _ (by omega)

/-- A word is its four bytes, the first lowest (20_memory.md R97). -/
theorem Block.readBytes_four (b : Block) (off : Nat) : b.readBytes off 4 =
    b.buf.readByte b.bufEpoch (off + 3) ++ b.buf.readByte b.bufEpoch (off + 2) ++
      b.buf.readByte b.bufEpoch (off + 1) ++ b.buf.readByte b.bufEpoch off := by
  have hbyte {k : Nat} (hk : k < 4) := b.extractLsb'_readBytes (n := 4) le_rfl off hk
  rw [← hbyte (k := 3) (by decide), ← hbyte (k := 2) (by decide), ← hbyte (k := 1) (by decide),
    ← Nat.add_zero off, ← hbyte (k := 0) (by decide), Nat.add_zero,
    BitVec.extractLsb'_append_extractLsb'_eq_extractLsb' (show 8 * 3 = 8 * 2 + 8 from rfl),
    BitVec.extractLsb'_append_extractLsb'_eq_extractLsb' (show 8 * 2 = 8 * 1 + 8 from rfl),
    BitVec.extractLsb'_append_extractLsb'_eq_extractLsb' (show 8 * 1 = 8 * 0 + 8 from rfl)]
  exact (BitVec.extractLsb'_eq_self ..).symm

theorem Block.hostRead_buffer {b : Block} {off n : Nat} (hr : b.rstN = true)
    (h : 0x400 ≤ off ∧ off < 0x400 + b.cfg.bufSize.bytes) (hok : accessOk b.cfg off n = true) :
    b.hostRead off n = b.readBytes off n := by
  simp [Block.hostRead, hr, hok, region_buffer h.1 h.2]

/-- Settles O17: a buffer access goes byte by byte, the low byte first. -/
theorem bufferByteOrder : Obligations.BufferByteOrder := by
  unfold Obligations.BufferByteOrder
  refine ⟨fun b addr n v hr hb h0 h1 hok => ?_, fun b k hr hk => ?_⟩
  · have hwrite := Block.access_write_buffer v hr h0 h1 hok
    rw [Block.guarded_of_idle _ hb] at hwrite
    rw [Block.hostOk_of_rstN hr] at hok
    have hn : n ≤ 4 := by
      have := ((accessOk_buffer n ⟨h0, h1⟩).mp hok).1
      omega
    simp only [hwrite, Block.hostRead_buffer hr ⟨h0, h1⟩ hok]
    refine ⟨fun k hk => Memory.readByte_writeBytes_inside _ _ _ _ _ hk, fun off hoff => ?_,
      fun k hk => b.extractLsb'_readBytes hn _ hk, b.readBytes_lt _⟩
    exact Memory.readByte_writeBytes_outside _ _ _ _ _ _ (by omega)
  · have hin : 0x400 ≤ 0x400 + 4 * k ∧ 0x400 + 4 * k < 0x400 + b.cfg.bufSize.bytes := by omega
    have hok : accessOk b.cfg (0x400 + 4 * k) 4 = true := (accessOk_buffer 4 hin).mpr (by omega)
    rw [Block.hostRead_buffer hr hin hok, Block.readBytes_four]
    rfl

end Sys2Proof.Machine
end

section
/-! SUPPORT. One event as one step of the machine (20_memory.md R105), and contention (R104): what is recorded of it and
what a sample takes while it lasts. -/

namespace Sys2Proof.Machine

/-! ## Events as steps -/

/-- An event that submits an operation is a 4-byte write to CMD of a word that decodes to it. -/
theorem Event.eq_write_of_instr? {e : Event} {i : Instr} (h : e.instr? = some i) :
    ∃ w, e = .host e.side (.write 0x00C#12 4 w) ∧ decode w = .instr i := by
  unfold Event.instr? at h
  split at h
  · cases h
  · next w hw =>
    have he : e = .host e.side (.write 0x00C#12 4 w) := by
      cases e with
      | host side a =>
        cases a with
        | read addr n => cases hw
        | write addr n v =>
          simp only [Event.cmdWord?] at hw
          split at hw
          · next hcmd =>
            obtain ⟨rfl, rfl⟩ := hcmd
            cases hw
            rfl
          · cases hw
      | clk side p => cases hw
      | clkClear side p v => cases hw
      | rst side level => cases hw
    refine ⟨w, he, ?_⟩
    split at h
    · next hdec => rw [hdec, Option.some.inj h]
    · cases h

/-- Settles O7: the step of each kind of event that submits no operation. -/
theorem stepTakesOtherEvents : Obligations.StepTakesOtherEvents := by
  unfold Obligations.StepTakesOtherEvents
  refine fun s => ⟨fun h => by simp [step, h], fun e es he => ⟨fun hg => by simp [step, he, hg], fun hg hno => ?_⟩⟩
  obtain ⟨b, hb⟩ := Option.isSome_iff_exists.mp hg
  cases hi : e.instr? with
  | none => simp [step, he, hb, hi]
  | some i =>
    obtain ⟨w, hw, hdec⟩ := Event.eq_write_of_instr? hi
    exact absurd hdec (hno w i hw)

/-! ## What every step keeps -/

/-- A property that submissions and events keep, whatever the schedule, the port and the replies, is kept by a run of an
operation. -/
theorem exec_induct {P : State → Prop}
    (hbook : ∀ (s : State) (es : List Event) (port : Side) (rs : List Reply), P s →
      P { s with env := es, port := port, replies := rs })
    (hsubmit : ∀ (s : State) (i : Instr) (b : Block), s.get s.port = some b → P s →
      P (s.set s.port (b.submit i (programOf b.cfg i))).note)
    (hevent : ∀ (s : State) (e : Event), P s → P (s.apply e)) {s t : State} {i : Instr} (hs : P s)
    (h : exec i s = .next t) : P t := by
  rw [exec_eq_operate] at h
  rcases s.operate_cases i (fun c => programOf c i) with ⟨-, h1⟩ | ⟨b, hget, ⟨-, h1⟩ | ⟨-, hb, h1⟩ | ⟨-, -, h1⟩⟩ <;>
    rw [h1] at h <;> cases h
  · exact hs
  · have hdrop : b.submit i (programOf b.cfg i) = b.raise .cmdIgnored := if_pos hb
    exact hdrop ▸ hsubmit s i b hget hs
  · exact State.runWhile_induct _ (fun s es h => hbook s es s.port s.replies h) _ _ (hsubmit s i b hget hs)
      fun s e _ h _ _ => hevent s e h

/-- So it is by every step. -/
theorem step_induct {P : State → Prop}
    (hbook : ∀ (s : State) (es : List Event) (port : Side) (rs : List Reply), P s →
      P { s with env := es, port := port, replies := rs })
    (hsubmit : ∀ (s : State) (i : Instr) (b : Block), s.get s.port = some b → P s →
      P (s.set s.port (b.submit i (programOf b.cfg i))).note)
    (hevent : ∀ (s : State) (e : Event), P s → P (s.apply e)) {s t : State} (hs : P s) (h : step s = .next t) :
    P t := by
  rcases step_cases s with ⟨-, h1⟩ | ⟨e, es, -, ⟨-, h1⟩ | ⟨b, -, ⟨i, -, h1⟩ | ⟨-, h1⟩⟩⟩ <;> rw [h1] at h
  · cases h
    exact hs
  · cases h
  · exact exec_induct hbook hsubmit hevent (hbook s es e.side (s.replies ++ e.replies b) hs) h
  · cases h
    exact hevent _ e (hbook s es s.port s.replies hs)

/-! ## The record of contention -/

/-- An event with a block to act on records the contention it leaves. -/
theorem State.contention_apply {s : State} {e : Event} (h : s.present e = true) :
    (s.apply e).contention = (s.contention || (s.apply e).contending) := by
  obtain ⟨b, hb⟩ := Option.isSome_iff_exists.mp h
  rw [State.apply_of_get hb]
  exact congrArg (· || _) (s.set_contention e.side (s.act b e))

/-- No event clears the record. -/
theorem State.contention_apply_of_recorded {s : State} (e : Event) (h : s.contention = true) :
    (s.apply e).contention = true := by
  cases hp : s.present e with
  | true => rw [State.contention_apply hp, h, Bool.true_or]
  | false => rwa [State.apply_of_absent (Option.not_isSome_iff_eq_none.mp (ne_true_of_eq_false hp))]

/-- No step clears the record (20_memory.md R104). -/
theorem step_contention {s t : State} (h : step s = .next t) (hc : s.contention = true) : t.contention = true :=
  step_induct (P := fun s => s.contention = true) (fun _ _ _ _ h => h) (fun _ _ _ _ h => by simp [h])
    (fun _ e => State.contention_apply_of_recorded e) hc h

/-! ## What a sample takes under contention -/

/-- While both blocks drive DATA, each block's data_i is what the environment brings. -/
theorem State.pinsAt_of_contending {s : State} {f : Block} (p : Pins) (hf : s.far = some f)
    (h : s.contending = true) : (s.pinsAt .near s.near p).data = p.data ∧ (s.pinsAt .far f p).data = p.data := by
  obtain ⟨hn, hfar⟩ : s.near.out.dataOe = true ∧ f.out.dataOe = true := by
    simpa [State.contending, hf] using h
  simp [State.pinsAt, Side.other, hf, dataLine, hn, hfar]

/-- A host's write to EVENTS changes nothing but EVENTS. -/
theorem Block.hostWrite_events {b : Block} (v : Word) (hr : b.rstN = true) : b.hostWrite 0x014 4 v = b.clearEvents v :=
  Block.access_write_register (addr := 0x014#12) v hr (by decide)

/-- A step of the clock, with a host's clear in it or without, is a step of the clock of a block that differs at most in
its EVENTS. -/
theorem State.act_clocks {s : State} {b : Block} {e : Event} (he : e.clocks = true) (hr : b.rstN = true) :
    ∃ ev p, s.act b e = (b.withEvents ev).clkStep p (s.slip e.side) := by
  cases e with
  | clk side p => exact ⟨b.regs.events, _, rfl⟩
  | clkClear side p v =>
    refine ⟨(b.clearEvents v).regs.events, s.pinsAt side b p, ?_⟩
    rw [State.act, Block.clkStepClear, Block.hostWrite_events v hr]
    rfl
  | host side a => cases he
  | rst side level => cases he

/-- Settles O53: the record is a disjunction that every event takes further, and under contention the draw is what
clkStep_bit says a sample takes. -/
theorem contentionIsRecordedForEver : Obligations.ContentionIsRecordedForEver := by
  unfold Obligations.ContentionIsRecordedForEver
  refine ⟨fun s e hp hc => by rw [State.contention_apply hp, hc, Bool.or_true], fun s t => step_contention,
    fun s f p => State.pinsAt_of_contending p, fun s e b he hb hr hc => ?_⟩
  have hdrawn : s.drawn e.side = true := State.drawn_of_contending e.side hc
  have hslip : s.slip e.side = some (Config.slipBit s.draws) := if_pos hdrawn
  obtain ⟨ev, p, hact⟩ := State.act_clocks he hr
  obtain ⟨hbit, htaken⟩ := Block.clkStep_bit (b := b.withEvents ev) p (s.slip e.side) hr
  rw [← hact, hslip, Option.getD_some] at hbit
  refine ⟨s.act b e, State.get_apply_same hb, hbit, ?_, fun rest hp => ?_⟩
  · rw [State.apply_of_get hb]
    simp [State.drawsAfter, he, hdrawn]
  · rw [← hbit, hact]
    exact htaken rest hp

end Sys2Proof.Machine
end

section
/-! SUPPORT. The pseudocode of every operation that a build accepts is made of legal lines, with every half of a bit
period closed by its hold and every overrun test after its cap (20_memory.md R103; 40_transport.md R171, R172;
42_framer.md R260). -/

namespace Sys2Proof.Machine

/-! ## Pseudocode a block can be sent to -/

theorem halvesClosed_append {xs ys : List Line} (hx : halvesClosed xs = true) (hy : halvesClosed ys = true) :
    halvesClosed (xs ++ ys) = true := by
  induction xs with
  | nil => exact hy
  | cons l xs ih =>
    simp only [halvesClosed, Bool.and_eq_true] at hx
    simp only [List.cons_append, halvesClosed, Bool.and_eq_true]
    refine ⟨?_, ih hx.2⟩
    cases xs with
    | nil => split <;> simp_all
    | cons x xs => exact hx.1

theorem capSettled_append {xs ys : List Line} (hx : capSettled xs = false) (hy : capSettled ys = false) :
    capSettled (xs ++ ys) = false := by
  induction xs with
  | nil => exact hy
  | cons l xs ih =>
    simp only [List.cons_append, capSettled] at hx ⊢
    split at hx
    · cases hx
    · next h =>
      rw [if_neg h]
      split at hx
      · next h' => rw [if_pos h']
      · next h' => rw [if_neg h', ih hx]

/-- Lines that a block built as `c` can be sent to, whatever its locals: each is legal, every half of a bit period runs
on to its hold, and an overrun test comes after the line that sets the cap it reads. -/
structure Runnable (c : Config) (ls : List Line) : Prop where
  legal : ∀ l ∈ ls, l.legal c = true
  halves : halvesClosed ls = true
  capSet : capSettled ls = false

namespace Runnable

variable {c : Config} {xs ys : List Line}

theorem append (hx : Runnable c xs) (hy : Runnable c ys) : Runnable c (xs ++ ys) :=
  ⟨fun l hl => (List.mem_append.mp hl).elim (hx.legal l) (hy.legal l), halvesClosed_append hx.halves hy.halves,
    capSettled_append hx.capSet hy.capSet⟩

theorem flatMap {α : Type} {f : α → List Line} {as : List α} (h : ∀ a ∈ as, Runnable c (f a)) :
    Runnable c (as.flatMap f) := by
  induction as with
  | nil => exact ⟨by simp, rfl, rfl⟩
  | cons a as ih =>
    rw [List.flatMap_cons]
    exact (h a List.mem_cons_self).append (ih fun x hx => h x (List.mem_cons_of_mem _ hx))

end Runnable

/-! ## The internal procedures -/

section
variable {c : Config}

theorem bitPeriod_runnable (h : c.role = .initiator) (d : Dir) : Runnable c (bitPeriod d) := by
  cases d <;> exact ⟨by simp [bitPeriod, Line.legal, h], rfl, rfl⟩

theorem xferI_runnable (h : c.role = .initiator) (d : Dir) {v : Src} (hv : v.legal c = true) :
    Runnable c (xferI d v) := by
  have hbits : Runnable c ((List.range 8).flatMap fun _ => bitPeriod d) := .flatMap fun _ _ => bitPeriod_runnable h d
  have hsettle : Runnable c [.delay .byteSettle] := ⟨by simp [Line.legal], rfl, rfl⟩
  refine .append (.append ?_ hbits) hsettle
  cases d <;> exact ⟨by simp [Line.legal, h, hv], rfl, rfl⟩

theorem pollHs_runnable (a : Bool) : Runnable c (pollHs a) := by
  cases a <;> exact ⟨by simp [pollHs, Line.legal], rfl, rfl⟩

theorem cycleI_runnable (h : c.role = .initiator) (d : Dir) {v : Src} (hv : v.legal c = true) :
    Runnable c (cycleI d v) := by
  have hend : Runnable c [.takeSh, .driveHs false] := ⟨by simp [Line.legal], rfl, rfl⟩
  refine .append (.append (.append (.append (.append (.append ?_ ?_) (pollHs_runnable true)) ?_)
    (xferI_runnable h d hv)) hend) (pollHs_runnable false)
  · cases d <;> exact ⟨by simp [Line.legal], rfl, rfl⟩
  · exact ⟨by simp [Line.legal], rfl, rfl⟩
  · cases d <;> exact ⟨by simp [Line.legal], rfl, rfl⟩

theorem armLines_runnable (h : c.role = .responder) (d : Dir) {v : Src} (hv : v.legal c = true) :
    Runnable c (armLines d v) := by
  cases d <;> exact ⟨by simp [armLines, Line.legal, h, hv], rfl, rfl⟩

theorem awaitByteLines_runnable (h : c.role = .responder) : Runnable c awaitByteLines :=
  ⟨by simp [awaitByteLines, Line.legal, h], rfl, rfl⟩

theorem cycleR_runnable (h : c.role = .responder) (d : Dir) {v : Src} (hv : v.legal c = true) :
    Runnable c (cycleR d v) := by
  have hdrive (a : Bool) : Runnable c [.driveHs a] := by cases a <;> exact ⟨by simp [Line.legal], rfl, rfl⟩
  refine .append (.append (.append (.append (.append (.append (pollHs_runnable true) ?_) (armLines_runnable h d hv))
    (hdrive true)) (awaitByteLines_runnable h)) (pollHs_runnable false)) (hdrive false)
  cases d <;> exact ⟨by simp [Line.legal], rfl, rfl⟩

/-! ## The parts of a frame -/

theorem addBuf_runnable {a : Acc} {j : Nat} (hj : j < c.bufSize.bytes) : Runnable c [.addBuf a j] :=
  ⟨by simp [Line.legal, hj], rfl, rfl⟩

theorem storeB_runnable {j : Nat} (hj : j < c.bufSize.bytes) : Runnable c [.storeB j, .addB] :=
  ⟨by simp [Line.legal, hj], rfl, rfl⟩

theorem src_buf_legal {j : Nat} (hj : j < c.bufSize.bytes) : (Src.buf j).legal c = true := decide_eq_true hj

theorem sendByteI_runnable (h : c.role = .initiator) (a : Acc) {j : Nat} (hj : j < c.bufSize.bytes) :
    Runnable c (sendByteI a j) :=
  (cycleI_runnable h .wr (src_buf_legal hj)).append (addBuf_runnable hj)

theorem bufSize_bytes_ge (z : BufSize) : 64 ≤ z.bytes := by cases z <;> decide

theorem overrunTail_runnable : Runnable c overrunTail := ⟨by simp [overrunTail, Line.legal], rfl, rfl⟩

theorem readRespTail_runnable (h : c.role = .initiator) {n : Nat} (hn : n ≤ c.bufSize.bytes) :
    Runnable c (readRespTail n) := by
  have hread : Runnable c (cycleI .rd .locB) := cycleI_runnable h .rd rfl
  have hpayload : Runnable c ((List.range n).flatMap fun j => cycleI .rd .locB ++ [.storeB j, .addB]) :=
    .flatMap fun j hj => hread.append (storeB_runnable (lt_of_lt_of_le (List.mem_range.mp hj) hn))
  have hstart : Runnable c [.clearAcc .acc] := ⟨by simp [Line.legal], rfl, rfl⟩
  exact .append (.append (hstart.append hpayload) hread) ⟨by simp [Line.legal], rfl, rfl⟩

theorem sendCmdProg_runnable (h : c.role = .initiator) : Runnable c sendCmdProg := by
  have hbytes : Runnable c ((List.range 4).flatMap (sendByteI .acc)) := .flatMap fun j hj =>
    sendByteI_runnable h .acc (by have := List.mem_range.mp hj; have := bufSize_bytes_ge c.bufSize; omega)
  have hstart : Runnable c [.clearAcc .acc] := ⟨by simp [Line.legal], rfl, rfl⟩
  exact .append (.append (hstart.append hbytes) (cycleI_runnable h .rd rfl)) ⟨by simp [Line.legal], rfl, rfl⟩

theorem readRespProg_runnable (h : c.role = .initiator) (v : Rev) : Runnable c (readRespProg v) := by
  have hread : Runnable c (cycleI .rd .locB) := cycleI_runnable h .rd rfl
  have hcap : Runnable c [.setCap] := ⟨by simp [Line.legal], rfl, rfl⟩
  have hpre (mid : List Line) (hmid : Runnable c mid) : Runnable c ([.setCap] ++ mid ++ [.setAdvlen, .testOverrun]) :=
    have hmid := hcap.append hmid
    have hlast : ∀ l ∈ [Line.setAdvlen, .testOverrun], l.legal c = true := by simp [Line.legal, h]
    ⟨fun l hl => (List.mem_append.mp hl).elim (hmid.legal l) (hlast l), halvesClosed_append hmid.halves rfl, rfl⟩
  cases v with
  | revA =>
    exact hpre _ (.append (.append (hread.append ⟨by simp [Line.legal], rfl, rfl⟩) hread)
      ⟨by simp [Line.legal], rfl, rfl⟩)
  | revB => exact hpre _ (hread.append ⟨by simp [Line.legal], rfl, rfl⟩)

theorem extPacketProg_runnable (h : c.role = .initiator) : Runnable c extPacketProg := by
  have hsize := bufSize_bytes_ge c.bufSize
  have hread : Runnable c (cycleI .rd .locB) := cycleI_runnable h .rd rfl
  have hstageA : Runnable c ((List.range 4).flatMap (sendByteI .accA)) := .flatMap fun j hj =>
    sendByteI_runnable h .accA (by have := List.mem_range.mp hj; omega)
  have hstageB : Runnable c ((List.range' 5 11).flatMap (sendByteI .accB)) := .flatMap fun j hj =>
    sendByteI_runnable h .accB (by have := List.mem_range'_1.mp hj; omega)
  have hstart : Runnable c [.clearAcc .accA] := ⟨by simp [Line.legal], rfl, rfl⟩
  have hstore {j : Nat} (hj : j ≤ 16) : Runnable c [.storeB j] := ⟨by simp [Line.legal]; omega, rfl, rfl⟩
  have hbetween : Runnable c [.delay .extSettle, .clearAcc .accB] := ⟨by simp [Line.legal], rfl, rfl⟩
  exact .append (.append (.append (.append (.append (.append (.append (hstart.append hstageA) hread)
    (hstore (by decide))) hbetween) hstageB) hread) (hstore (by decide))) ⟨by simp [Line.legal], rfl, rfl⟩

theorem rspReadCksumProg_runnable (h : c.role = .responder) {n : Nat} (hn : n ≤ c.bufSize.bytes) :
    Runnable c (rspReadCksumProg n) := by
  have hbytes : Runnable c ((List.range n).flatMap fun j => cycleR .rd .locB ++ [.storeB j, .addB]) :=
    .flatMap fun j hj =>
      (cycleR_runnable h .rd rfl).append (storeB_runnable (lt_of_lt_of_le (List.mem_range.mp hj) hn))
  have hstart : Runnable c [.setN, .clearAcc .acc] := ⟨by simp [Line.legal], rfl, rfl⟩
  exact .append (.append (hstart.append hbytes) (cycleR_runnable h .wr rfl)) ⟨by simp [Line.legal], rfl, rfl⟩

theorem rspWriteCksumProg_runnable (h : c.role = .responder) (v : Rev) {n : Nat} (hn : n ≤ c.bufSize.bytes) :
    Runnable c (rspWriteCksumProg v n) := by
  have hbytes : Runnable c ((List.range n).flatMap fun j => cycleR .wr (.buf j) ++ [.addBuf .acc j]) :=
    .flatMap fun j hj =>
      have hj := lt_of_lt_of_le (List.mem_range.mp hj) hn
      (cycleR_runnable h .wr (src_buf_legal hj)).append (addBuf_runnable hj)
  have hsend (v : Src) (hv : v.legal c = true) : Runnable c (cycleR .wr v) := cycleR_runnable h .wr hv
  have hstart : Runnable c [.setN] := ⟨by simp [Line.legal], rfl, rfl⟩
  have hclear : Runnable c [.clearAcc .acc] := ⟨by simp [Line.legal], rfl, rfl⟩
  refine .append (.append (.append (.append (hstart.append ?_) hclear) hbytes) (hsend .acc rfl))
    ⟨by simp [Line.legal], rfl, rfl⟩
  cases v with
  | revA => exact (hsend .nLo rfl).append (hsend .nHi rfl)
  | revB => exact hsend .nLo rfl

theorem cksumComputeProg_runnable {n : Nat} (hn : n ≤ c.bufSize.bytes) : Runnable c (cksumComputeProg n) := by
  have hadds : Runnable c ((List.range n).map (Line.addBuf .acc)) := by
    rw [List.map_eq_flatMap]
    exact .flatMap fun j hj => addBuf_runnable (lt_of_lt_of_le (List.mem_range.mp hj) hn)
  have hstart : Runnable c [.setN, .showCompute, .clearAcc .acc] := ⟨by simp [Line.legal], rfl, rfl⟩
  exact .append (hstart.append hadds) ⟨by simp [Line.legal], rfl, rfl⟩

/-! ## Every operation -/

theorem writeByteProg_runnable : Runnable c (writeByteProg c.role) := by
  have hstart : Runnable c [.readData, .driveOe true] := ⟨by simp [Line.legal], rfl, rfl⟩
  refine .append (hstart.append ?_) ⟨by simp [Line.legal], rfl, rfl⟩
  cases h : c.role with
  | initiator => exact xferI_runnable h .wr rfl
  | responder =>
    exact (armLines_runnable h .wr rfl).append ⟨by simp [awaitDoneLines, Line.legal, h], rfl, rfl⟩

theorem readByteProg_runnable : Runnable c (readByteProg c.role) := by
  refine .append ?_ ⟨by simp [Line.legal], rfl, rfl⟩
  cases h : c.role with
  | initiator => exact (xferI_runnable h .rd rfl).append ⟨by simp [Line.legal], rfl, rfl⟩
  | responder => exact (armLines_runnable h .rd rfl).append (awaitByteLines_runnable h)

/-- A block can be sent to the pseudocode of every operation that is well formed for its build. -/
theorem programOf_runnable {i : Instr} (h : i.wf c = true) : Runnable c (programOf c i) := by
  simp only [Instr.wf, Bool.and_eq_true] at h
  obtain ⟨hrole, harg⟩ := h
  cases i with
  | writeByte arg lvl => exact writeByteProg_runnable
  | readByte arg lvl => exact readByteProg_runnable
  | cksumCompute arg lvl => exact cksumComputeProg_runnable (of_decide_eq_true harg)
  | sendCmd arg lvl => exact sendCmdProg_runnable (of_decide_eq_true hrole)
  | readResp arg lvl => exact readRespProg_runnable (of_decide_eq_true hrole) _
  | extPacket arg lvl => exact extPacketProg_runnable (of_decide_eq_true hrole)
  | rspReadCksum arg lvl =>
    exact rspReadCksumProg_runnable (of_decide_eq_true hrole) (of_decide_eq_true harg)
  | rspWriteCksum arg lvl =>
    simp only [Instr.argOk, Bool.and_eq_true] at harg
    exact rspWriteCksumProg_runnable (of_decide_eq_true hrole) _ (of_decide_eq_true harg.1)
  | _ => exact ⟨by simp [programOf, nopProg, waitProg, hsDriveProg, dataAcquireProg, dataReleaseProg, delayProg,
      xportResetProg, Line.legal], rfl, rfl⟩

end

end Sys2Proof.Machine
end

section
/-! SUPPORT. The invariant of a block in its parts (the synchronisers, the data, the unfinished result, the lines to come
and their counters), and what each line keeps of them. -/

namespace Sys2Proof.Machine

/-! ## Events one by one -/

theorem EventBit.getLsbD_mask (e e' : EventBit) : e.mask.getLsbD e'.index = decide (e = e') := by
  cases e <;> cases e' <;> rfl

theorem Block.event_raise (b : Block) (e e' : EventBit) : (b.raise e).event e' = (b.event e' || decide (e = e')) :=
  BitVec.getLsbD_or.trans (congrArg (_ || ·) (e.getLsbD_mask e'))

/-- finish raises DONE and perhaps ERR, and no other event. -/
theorem Block.event_strayClk_finish (b : Block) (c : ResultCode) : (b.finish c).event .strayClk = b.event .strayClk := by
  rw [Block.event, Block.finish_regs]
  cases c.isError <;> simp [Block.event, EventBit.mask, EventBit.index]

/-! ## The invariant in parts -/

/-- The synchronisers' part of the invariant. -/
structure Block.SyncInv (b : Block) : Prop where
  hsStages : b.sync.hs.length = b.cfg.syncStages
  dataStages : b.sync.data.length = b.cfg.syncStages
  sckStages : b.sync.sck.length = b.cfg.syncStages
  hsPrevTracks : b.sync.hsPrev = lastStage b.sync.hs
  sckPrevTracks : b.sync.sckPrev = lastStage b.sync.sck

/-- What the invariant says of the buffer, of an initiator's transport and of the pin a responder lacks. -/
structure Block.DataInv (b : Block) : Prop where
  bufWf : b.buf.wf = true
  bufWithin : b.buf.within b.cfg.bufSize.bytes = true
  initiator : b.cfg.role = .initiator → b.xp.armed = false ∧ b.xp.byteDone = false ∧ b.event .strayClk = false
  responder : b.cfg.role = .responder → b.out.sckO = true

/-- The result of an operation that runs (60_exceptions.md R353). -/
def Block.unfinished (b : Block) : Prop :=
  b.regs.result.code = .none ∧ b.event .done = false ∧ b.event .err = false

/-- What the invariant says of the lines to come and the counters they use. -/
structure Block.PosInv (b : Block) : Prop where
  legal : ∀ l ∈ b.seq.prog.lines, l.legal b.cfg = true
  capBound : capSettled b.seq.prog.lines = true → b.seq.locs.cap.toNat ≤ b.cfg.bufSize.bytes
  timersRest : b.seq.prog.inDelay = false → b.tmr = .reset
  holdRest : b.seq.prog.inHalf = false → b.xp.hph = 0#16
  halves : halvesClosed b.seq.prog.lines = true

/-- The invariant's parts that a sequencer step bears on (the synchronisers are not among them). -/
structure Block.StepInv (b : Block) : Prop where
  data : b.DataInv
  pos : b.PosInv
  running : b.busy = true → b.unfinished

section
variable {b y : Block} {l : Line} {rest ls : List Line}

theorem Block.Inv.syncInv (h : b.Inv) : b.SyncInv :=
  ⟨h.hsStages, h.dataStages, h.sckStages, h.hsPrevTracks, h.sckPrevTracks⟩

theorem Block.Inv.stepInv (h : b.Inv) : b.StepInv :=
  ⟨⟨h.bufWf, h.bufWithin, h.initiator, h.responder⟩, ⟨h.legal, h.capBound, h.timersRest, h.holdRest, h.halves⟩,
    h.running⟩

/-- The parts make the invariant. -/
theorem Block.Inv.of_parts (hcfg : b.cfg.wf = true) (hs : b.SyncInv) (h : b.StepInv)
    (hmid : b.seq.mid = true → b.busy = true) (hone : b.cfg.role = .initiator → b.seq.mid = false) : b.Inv where
  cfgWf := hcfg
  bufWf := h.data.bufWf
  bufWithin := h.data.bufWithin
  hsStages := hs.hsStages
  dataStages := hs.dataStages
  sckStages := hs.sckStages
  hsPrevTracks := hs.hsPrevTracks
  sckPrevTracks := hs.sckPrevTracks
  running := h.running
  initiator := h.data.initiator
  responder := h.data.responder
  legal := h.pos.legal
  capBound := h.pos.capBound
  timersRest := h.pos.timersRest
  holdRest := h.pos.holdRest
  halves := h.pos.halves
  midRuns := hmid
  oneStep := hone

/-! ## Going on at other lines -/

/-- The same position: a counter may have moved on if the next line uses it. -/
theorem Block.PosInv.congr (h : b.PosInv) (hcfg : y.cfg = b.cfg) (hprog : y.seq.prog = b.seq.prog)
    (hcap : y.seq.locs.cap = b.seq.locs.cap) (htmr : y.tmr = b.tmr ∨ b.seq.prog.inDelay = true)
    (hhph : y.xp.hph = b.xp.hph ∨ b.seq.prog.inHalf = true) : y.PosInv where
  legal := by rw [hprog, hcfg]; exact h.legal
  capBound := by rw [hprog, hcfg, hcap]; exact h.capBound
  timersRest := fun hd => by
    rw [hprog] at hd
    exact htmr.elim (·.trans (h.timersRest hd)) fun hd' => absurd (hd.symm.trans hd') Bool.false_ne_true
  holdRest := fun hh => by
    rw [hprog] at hh
    exact hhph.elim (·.trans (h.holdRest hh)) fun hh' => absurd (hh.symm.trans hh') Bool.false_ne_true
  halves := by rw [hprog]; exact h.halves

/-- An idle block's position asks for counters at rest. -/
theorem Block.PosInv.of_idle (hprog : b.seq.prog = .idle) (htmr : b.tmr = .reset) (hhph : b.xp.hph = 0#16) : b.PosInv :=
  ⟨by simp [hprog, Prog.lines], by simp [hprog, Prog.lines, capSettled], fun _ => htmr, fun _ => hhph,
    by simp [hprog, Prog.lines, halvesClosed]⟩

/-- Delays that are passed over leave every half of a bit period with its hold. -/
theorem Block.halvesClosed_dropZero (b : Block) (h : halvesClosed ls = true) : halvesClosed (b.dropZero ls) = true := by
  induction ls with
  | nil => exact h
  | cons x xs ih =>
    cases x with
    | delay d =>
      rw [Block.dropZero]
      split
      · simp only [halvesClosed, Bool.and_eq_true] at h
        exact ih h.2
      · exact h
    | _ => exact h

theorem Block.capSettled_dropZero (b : Block) (ls : List Line) : capSettled (b.dropZero ls) = capSettled ls := by
  induction ls with
  | nil => rfl
  | cons x xs ih =>
    cases x with
    | delay d =>
      rw [Block.dropZero]
      split
      · exact ih
      · rfl
    | _ => rfl

/-- A line of a half of a bit period is no delay. -/
theorem Block.dropZero_of_inHalf (b : Block) (h : ls.head?.any Line.inHalf = true) : b.dropZero ls = ls := by
  cases ls with
  | nil => rfl
  | cons x xs =>
    cases x with
    | delay d => cases h
    | _ => rfl

/-- A block goes on at lines it may come to, with the delay counters at rest and the half-period's at rest or in use. -/
theorem Block.PosInv.goto (hlegal : ∀ l ∈ ls, l.legal b.cfg = true)
    (hcap : capSettled ls = true → b.seq.locs.cap.toNat ≤ b.cfg.bufSize.bytes) (hhalves : halvesClosed ls = true)
    (htmr : b.tmr = .reset) (hhph : b.xp.hph = 0#16 ∨ ls.head?.any Line.inHalf = true) : (b.goto ls).PosInv where
  legal := fun l hl => hlegal l (b.mem_of_mem_dropZero hl)
  capBound := fun h => hcap ((b.capSettled_dropZero ls).symm.trans h)
  timersRest := fun _ => htmr
  holdRest := fun h => hhph.elim id fun h' => by
    have h' : (Prog.run (b.dropZero ls)).inHalf = true := by rwa [b.dropZero_of_inHalf h']
    exact absurd (h.symm.trans h') Bool.false_ne_true
  halves := b.halvesClosed_dropZero hhalves

theorem Block.PosInv.goto_of_runnable (h : Runnable b.cfg ls) (htmr : b.tmr = .reset) (hhph : b.xp.hph = 0#16) :
    (b.goto ls).PosInv :=
  .goto h.legal (fun hc => absurd (h.capSet.symm.trans hc) Bool.false_ne_true) h.halves htmr (.inl hhph)

/-- The line after the next one, on a block with the same lines to come: what the invariant says of it. -/
theorem Block.PosInv.goto_rest (h : b.PosInv) (hp : b.seq.prog = .run (l :: rest)) (hcfg : y.cfg = b.cfg)
    (hcap : capSettled rest = true → y.seq.locs.cap.toNat ≤ b.cfg.bufSize.bytes) (htmr : y.tmr = .reset)
    (hhph : y.xp.hph = 0#16 ∨ rest.head?.any Line.inHalf = true) : (y.goto rest).PosInv := by
  have hlegal := h.legal
  have hhalves := h.halves
  simp only [hp, Prog.lines, List.forall_mem_cons, halvesClosed, Bool.and_eq_true] at hlegal hhalves
  exact .goto (by rw [hcfg]; exact hlegal.2) (by rw [hcfg]; exact hcap) hhalves.2 htmr hhph

/-- A line that uses no counter and neither sets nor tests the cap. -/
def Line.plain : Line → Bool
  | .delay _ | .putBit | .takeBit _ | .shiftBit | .countBit | .hold | .setCap | .testOverrun => false
  | _ => true

theorem Line.of_plain (h : l.plain = true) :
    (∀ d, l ≠ .delay d) ∧ l.inHalf = false ∧ l ≠ .setCap ∧ l ≠ .testOverrun := by
  cases l with
  | delay d | putBit | takeBit d | shiftBit | countBit | hold | setCap | testOverrun => cases h
  | _ => exact ⟨nofun, rfl, nofun, nofun⟩

theorem Block.PosInv.tmr_of_line (h : b.PosInv) (hp : b.seq.prog = .run (l :: rest)) (hl : ∀ d, l ≠ .delay d) :
    b.tmr = .reset := by
  refine h.timersRest ?_
  rw [hp]
  cases l with
  | delay d => exact absurd rfl (hl d)
  | _ => rfl

theorem Block.PosInv.hph_of_line (h : b.PosInv) (hp : b.seq.prog = .run (l :: rest)) (hl : l.inHalf = false) :
    b.xp.hph = 0#16 :=
  h.holdRest (by rw [hp]; exact hl)

theorem Block.PosInv.cap_of_line (h : b.PosInv) (hp : b.seq.prog = .run (l :: rest)) (h1 : l ≠ .setCap)
    (h2 : l ≠ .testOverrun) : capSettled rest = true → b.seq.locs.cap.toNat ≤ b.cfg.bufSize.bytes := by
  have hcap := h.capBound
  rwa [hp, Prog.lines, capSettled, if_neg h2, if_neg h1] at hcap

theorem Block.PosInv.goto_plain (h : b.PosInv) (hp : b.seq.prog = .run (l :: rest)) (hl : l.plain = true)
    (hcfg : y.cfg = b.cfg) (hcap : y.seq.locs.cap = b.seq.locs.cap) (htmr : y.tmr = b.tmr)
    (hhph : y.xp.hph = b.xp.hph) : (y.goto rest).PosInv := by
  obtain ⟨hdelay, hhalf, h1, h2⟩ := Line.of_plain hl
  exact h.goto_rest hp hcfg (hcap ▸ h.cap_of_line hp h1 h2) (htmr.trans (h.tmr_of_line hp hdelay))
    (.inl (hhph.trans (h.hph_of_line hp hhalf)))

/-- An edge of CLK and the lines that count a cycle of its half: the next line is of the same half. -/
theorem Block.PosInv.goto_inHalf (h : b.PosInv) (hp : b.seq.prog = .run (l :: rest))
    (hl : l ∈ [.sckLow, .putBit, .sckHigh, .takeBit .wr, .takeBit .rd, .shiftBit, .countBit])
    (hcfg : y.cfg = b.cfg) (hcap : y.seq.locs.cap = b.seq.locs.cap) (htmr : y.tmr = b.tmr) : (y.goto rest).PosInv := by
  have hopen : (∀ d, l ≠ .delay d) ∧ l ≠ .setCap ∧ l ≠ .testOverrun ∧
      ((l.inHalf && decide (l ≠ .hold)) || decide (l ∈ [.sckLow, .sckHigh])) = true := by
    simp only [List.mem_cons, List.not_mem_nil, or_false] at hl
    rcases hl with rfl | rfl | rfl | rfl | rfl | rfl | rfl <;> exact ⟨nofun, nofun, nofun, rfl⟩
  obtain ⟨hdelay, h1, h2, hopen⟩ := hopen
  have hhalves := h.halves
  rw [hp, Prog.lines, halvesClosed, if_pos hopen, Bool.and_eq_true] at hhalves
  exact h.goto_rest hp hcfg (hcap ▸ h.cap_of_line hp h1 h2) (htmr.trans (h.tmr_of_line hp hdelay)) (.inr hhalves.1)

theorem Block.PosInv.finish (h : b.PosInv) (hp : b.seq.prog = .run (l :: rest)) (hl : l.plain = true) (c : ResultCode)
    (htmr : y.tmr = b.tmr) (hxp : y.xp = b.xp) : (y.finish c).PosInv :=
  have ⟨hdelay, hhalf, _⟩ := Line.of_plain hl
  .of_idle (by simp) (by rw [Block.finish_tmr, htmr]; exact h.tmr_of_line hp hdelay)
    (by rw [Block.finish_xp, hxp]; exact h.hph_of_line hp hhalf)

/-! ## One line -/

/-- A delay's counters run while its line stays, and are at rest when it goes on. -/
theorem Block.PosInv.delayCycle {d : Delay} (h : b.PosInv) (hp : b.seq.prog = .run (.delay d :: rest)) (t : Half) :
    (b.delayCycle t (.delay d :: rest) rest).PosInv := by
  have hdelay : b.seq.prog.inDelay = true := by rw [hp]; rfl
  unfold Block.delayCycle
  split
  · exact h.congr rfl hp.symm rfl (.inr hdelay) (.inl rfl)
  · split
    · exact h.congr rfl hp.symm rfl (.inr hdelay) (.inl rfl)
    · exact h.goto_rest hp rfl (h.cap_of_line hp nofun nofun) rfl (.inl (h.hph_of_line hp rfl))

/-- So does the count of a half-period. -/
theorem Block.PosInv.holdCycle (h : b.PosInv) (hp : b.seq.prog = .run (.hold :: rest)) :
    (b.holdCycle (.hold :: rest) rest).PosInv := by
  have hhold : b.seq.prog.inHalf = true := by rw [hp]; rfl
  unfold Block.holdCycle
  split
  · exact h.congr rfl hp.symm rfl (.inl rfl) (.inr hhold)
  · exact h.goto_rest hp rfl (h.cap_of_line hp nofun nofun) (h.tmr_of_line hp nofun) (.inl rfl)

/-- READ_RESP reads on for L bytes only if they fit the buffer (42_framer.md R260). -/
theorem Block.PosInv.testOverrun (h : b.PosInv) (hp : b.seq.prog = .run (.testOverrun :: rest)) :
    (b.runLine .testOverrun rest).PosInv := by
  have htmr := h.tmr_of_line hp nofun
  have hhph := h.hph_of_line hp rfl
  have hrole : b.cfg.role = .initiator := of_decide_eq_true (h.legal .testOverrun (by simp [hp, Prog.lines]))
  have hcap : b.seq.locs.cap.toNat ≤ b.cfg.bufSize.bytes := h.capBound (by rw [hp]; rfl)
  simp only [Block.runLine]
  split
  · exact .goto_of_runnable overrunTail_runnable htmr hhph
  · next hlen =>
    rw [BitVec.lt_def] at hlen
    exact .goto_of_runnable (readRespTail_runnable hrole (by omega)) htmr hhph

/-- setCap's cap is at most the buffer (42_framer.md R260). -/
theorem Block.PosInv.setCap (h : b.PosInv) (hp : b.seq.prog = .run (.setCap :: rest)) :
    (b.runLine .setCap rest).PosInv := by
  refine h.goto_rest hp rfl (fun _ => ?_) (h.tmr_of_line hp nofun) (.inl (h.hph_of_line hp rfl))
  exact (Nat.mod_le _ _).trans (min_le_right _ _)

/-- Every line keeps the position's part of the invariant. -/
theorem Block.PosInv.runLine (h : b.PosInv) (hp : b.seq.prog = .run (l :: rest)) : (b.runLine l rest).PosInv := by
  have hplain (hl : l.plain = true) (y : Block) := h.goto_plain (y := y) hp hl
  cases l with
  | delay d => exact h.delayCycle hp _
  | hold => exact h.holdCycle hp
  | testOverrun => exact h.testOverrun hp
  | setCap => exact h.setCap hp
  | sckLow | putBit | sckHigh | shiftBit | countBit => exact h.goto_inHalf hp (by decide) rfl rfl rfl
  | takeBit d => cases d <;> exact h.goto_inHalf hp (by decide) rfl rfl rfl
  | awaitHs a =>
    simp only [Block.runLine]
    split
    · exact hplain rfl _ rfl rfl rfl rfl
    · exact h
  | awaitByte =>
    simp only [Block.runLine]
    split
    · exact hplain rfl _ rfl rfl rfl rfl
    · exact h
  | waitFinish k =>
    simp only [Block.runLine]
    split
    · exact h.finish hp rfl _ rfl rfl
    · exact h
  | driveOeFinish v => exact h.finish (y := b.driveOe v) hp rfl .ok rfl rfl
  | driveHsFinish => exact h.finish (y := b.driveHs b.seq.lvlv) hp rfl .ok rfl rfl
  | finish c => exact h.finish hp rfl _ rfl rfl
  | finishMatchB => exact h.finish hp rfl _ rfl rfl
  | finishMatchData => exact h.finish hp rfl _ rfl rfl
  | loadSh v => cases v <;> exact hplain rfl _ rfl rfl rfl rfl
  | armSh v => cases v <;> exact hplain rfl _ rfl rfl rfl rfl
  | clearAcc a => cases a <;> exact hplain rfl _ rfl rfl rfl rfl
  | addBuf a j => cases a <;> exact hplain rfl _ rfl rfl rfl rfl
  | xportSck =>
    simp only [Block.runLine]
    split <;> exact hplain rfl _ rfl rfl rfl rfl
  | _ => exact hplain rfl _ rfl rfl rfl rfl

theorem Block.DataInv.finish (h : b.DataInv) (c : ResultCode) : (b.finish c).DataInv where
  bufWf := by simpa using h.bufWf
  bufWithin := by simpa using h.bufWithin
  initiator := by simpa [Block.event_strayClk_finish] using h.initiator
  responder := by simpa using h.responder

/-- Every legal line keeps the data's part. -/
theorem Block.DataInv.runLine (h : b.DataInv) (hl : l.legal b.cfg = true) : (b.runLine l rest).DataInv := by
  obtain ⟨hwf, hwithin, hini, hrsp⟩ := h
  cases l with
  | storeB j =>
    have hj : j < b.cfg.bufSize.bytes := of_decide_eq_true hl
    exact ⟨Memory.wf_writeByte _ _ hwf,
      Memory.within_writeByte _ (Nat.le_add_right _ _) (Nat.add_lt_add_left hj _) hwithin, hini, hrsp⟩
  | sckLow | sckHigh =>
    have hrole : b.cfg.role = .initiator := of_decide_eq_true hl
    exact ⟨hwf, hwithin, hini, fun hr => by cases hrole.symm.trans hr⟩
  | arm =>
    have hrole : b.cfg.role = .responder := of_decide_eq_true hl
    exact ⟨hwf, hwithin, fun hr => (by cases hrole.symm.trans hr), hrsp⟩
  | clearDone => exact ⟨hwf, hwithin, fun hr => have ⟨harmed, _, hstray⟩ := hini hr; ⟨harmed, rfl, hstray⟩, hrsp⟩
  | takeDone used => exact ⟨hwf, hwithin, fun hr => have ⟨harmed, _, hstray⟩ := hini hr; ⟨harmed, rfl, hstray⟩, hrsp⟩
  | xportClear => exact ⟨hwf, hwithin, fun hr => have ⟨_, _, hstray⟩ := hini hr; ⟨rfl, rfl, hstray⟩, hrsp⟩
  | xportSck =>
    simp only [Block.runLine]
    split
    · next hrole => exact ⟨hwf, hwithin, hini, fun hr => by cases hrole.symm.trans hr⟩
    · exact ⟨hwf, hwithin, hini, hrsp⟩
  | delay d =>
    simp only [Block.runLine, Block.delayCycle]
    split
    · exact ⟨hwf, hwithin, hini, hrsp⟩
    · split <;> exact ⟨hwf, hwithin, hini, hrsp⟩
  | hold =>
    simp only [Block.runLine, Block.holdCycle]
    split <;> exact ⟨hwf, hwithin, hini, hrsp⟩
  | awaitHs a | awaitByte | testOverrun =>
    simp only [Block.runLine]
    split <;> exact ⟨hwf, hwithin, hini, hrsp⟩
  | waitFinish k =>
    simp only [Block.runLine]
    split
    · exact .finish ⟨hwf, hwithin, hini, hrsp⟩ _
    · exact ⟨hwf, hwithin, hini, hrsp⟩
  | driveOeFinish v => exact .finish (b := b.driveOe v) ⟨hwf, hwithin, hini, hrsp⟩ .ok
  | driveHsFinish => exact .finish (b := b.driveHs b.seq.lvlv) ⟨hwf, hwithin, hini, hrsp⟩ .ok
  | finish c => exact .finish ⟨hwf, hwithin, hini, hrsp⟩ _
  | finishMatchB => exact .finish ⟨hwf, hwithin, hini, hrsp⟩ _
  | finishMatchData => exact .finish ⟨hwf, hwithin, hini, hrsp⟩ _
  | loadSh v => cases v <;> exact ⟨hwf, hwithin, hini, hrsp⟩
  | armSh v => cases v <;> exact ⟨hwf, hwithin, hini, hrsp⟩
  | _ => exact ⟨hwf, hwithin, hini, hrsp⟩

/-- While the operation runs on, no line touches its result's code, DONE or ERR. -/
theorem Block.unfinished.runLine (h : b.unfinished) (hb : (b.runLine l rest).busy = true) :
    (b.runLine l rest).unfinished := by
  cases l with
  | delay d =>
    simp only [Block.runLine, Block.delayCycle]
    split
    · exact h
    · split <;> exact h
  | hold =>
    simp only [Block.runLine, Block.holdCycle]
    split <;> exact h
  | awaitHs a | awaitByte | testOverrun =>
    simp only [Block.runLine]
    split <;> exact h
  | waitFinish k =>
    simp only [Block.runLine] at hb ⊢
    split
    · next hm => simp [hm] at hb
    · exact h
  | driveOeFinish v | driveHsFinish | finish c | finishMatchB | finishMatchData => simp [Block.runLine] at hb
  | loadSh v => cases v <;> exact h
  | armSh v => cases v <;> exact h
  | xportSck =>
    simp only [Block.runLine]
    split <;> exact h
  | _ => exact h

end

end Sys2Proof.Machine
end

section
/-! SUPPORT. A step of the clock keeps the invariant of its block, as its parts say line by line (60_exceptions.md
R347, R353). -/

namespace Sys2Proof.Machine

section
variable {b y : Block} {l : Line} {rest : List Line}

/-- Only AwaitByte's steps leave a clk cycle unfinished, so no line of an initiator does, and the operation runs on. -/
theorem Block.flows_responder (hf : b.flows l = true) (hl : l.legal b.cfg = true) :
    b.cfg.role = .responder ∧ (b.runLine l rest).busy = true := by
  cases l with
  | awaitByte => exact ⟨of_decide_eq_true hl, by rw [Block.runLine, if_pos (show b.xp.byteDone = true from hf)]; rfl⟩
  | takeDone used => exact ⟨of_decide_eq_true hl, rfl⟩
  | _ => cases hf

theorem Block.StepInv.legal_of_prog (h : b.StepInv) (hp : b.seq.prog = .run (l :: rest)) : l.legal b.cfg = true :=
  h.pos.legal l (by simp [hp, Prog.lines])

theorem Block.StepInv.lineStep (h : b.StepInv) : b.lineStep.StepInv := by
  cases hp : b.seq.prog with
  | idle => rwa [Block.lineStep_idle hp]
  | run ls =>
    have hbusy : b.busy = true := by simp [Block.busy, hp]
    cases ls with
    | nil =>
      rw [Block.lineStep_nil hp]
      have htmr : b.tmr = .reset := h.pos.timersRest (by rw [hp]; rfl)
      have hhph : b.xp.hph = 0#16 := h.pos.holdRest (by rw [hp]; rfl)
      exact ⟨h.data.finish _, .of_idle (by simp) (by simpa using htmr) (by simpa using hhph), by simp⟩
    | cons l rest =>
      rw [Block.lineStep_cons hp]
      exact ⟨h.data.runLine (h.legal_of_prog hp), h.pos.runLine hp, fun hb => (h.running hbusy).runLine hb⟩

/-- A sequencer step that leaves its clk cycle unfinished is a responder's, and its operation runs on. -/
theorem Block.StepInv.goesOn (h : b.StepInv) (hg : b.goesOn = true) :
    b.cfg.role = .responder ∧ b.lineStep.busy = true := by
  unfold Block.goesOn at hg
  split at hg
  · cases hg
  · cases hg
  · next l rest hp =>
    rw [Block.lineStep_cons hp]
    exact Block.flows_responder hg (h.legal_of_prog hp)

theorem Block.StepInv.congr (h : b.StepInv) (hd : y.DataInv) (hcfg : y.cfg = b.cfg) (hseq : y.seq = b.seq)
    (htmr : y.tmr = b.tmr) (hhph : y.xp.hph = b.xp.hph) (hrun : b.unfinished → y.unfinished) : y.StepInv :=
  ⟨hd, h.pos.congr hcfg (by rw [hseq]) (by rw [hseq]) (.inl htmr) (.inl hhph),
    fun hb => hrun (h.running (by simpa only [Block.busy, hseq] using hb))⟩

/-- A sequencer step keeps the invariant, whatever the synchronisers hold. -/
theorem Block.StepInv.seqStep (h : b.StepInv) : b.seqStep.StepInv ∧ (b.seqStep.seq.mid = true → b.seqStep.busy = true) ∧
    (b.cfg.role = .initiator → b.seqStep.seq.mid = false) := by
  refine ⟨?_, fun hg => (h.goesOn hg).2, fun hrole => ?_⟩
  · obtain ⟨⟨hwf, hwithin, hini, hrsp⟩, ⟨hlegal, hcap, htmr, hhph, hhalves⟩, hrun⟩ := h.lineStep
    exact ⟨⟨hwf, hwithin, hini, hrsp⟩, ⟨hlegal, hcap, htmr, hhph, hhalves⟩, hrun⟩
  · cases hg : b.goesOn with
    | false => exact hg
    | true => cases hrole.symm.trans (h.goesOn hg).1

theorem Block.hph_edgeEngine (b : Block) : b.edgeEngine.xp.hph = b.xp.hph := by
  have hfall : b.engineFall.xp = b.xp := by unfold Block.engineFall; split <;> rfl
  have hrise : b.engineRise.xp.hph = b.xp.hph := by unfold Block.engineRise; simp only; split <;> split <;> rfl
  unfold Block.edgeEngine
  split
  · rfl
  · simp only
    split
    · exact congrArg _ hfall
    · split
      · exact hrise
      · rfl

/-- An initiator has no edge engine (40_transport.md R174). -/
theorem Block.begun_of_initiator (h : b.cfg.role = .initiator) (p : Pins) (slip : Option Level) :
    b.begun p slip = b.syncShift p slip := by
  simp [Block.begun, Block.edgeEngine, Block.syncShift, h]

/-- The start of a clk cycle keeps these parts of the invariant. -/
theorem Block.StepInv.begun (h : b.StepInv) (p : Pins) (slip : Option Level) : (b.begun p slip).StepInv := by
  obtain ⟨⟨hwf, hwithin, hini, hrsp⟩, ⟨hlegal, hcap, htmr, hhph, hhalves⟩, hrun⟩ := id h
  cases hrole : b.cfg.role with
  | initiator =>
    rw [Block.begun_of_initiator hrole]
    exact ⟨⟨hwf, hwithin, hini, hrsp⟩, ⟨hlegal, hcap, htmr, hhph, hhalves⟩, hrun⟩
  | responder =>
    have hhph' : (b.begun p slip).xp.hph = b.xp.hph := (b.syncShift p slip).hph_edgeEngine
    obtain ⟨ev, x, d, q, hev, he⟩ := (b.syncShift p slip).edgeEngine_eq
    rw [Block.begun, he] at hhph' ⊢
    refine h.congr ⟨hwf, hwithin, fun hi => ?_, hrsp⟩ rfl rfl rfl hhph' fun ⟨hcode, hdone, herr⟩ => ⟨hcode, ?_, ?_⟩
    · cases hrole.symm.trans hi
    · obtain rfl | rfl := hev
      · exact hdone
      · exact (b.event_raise .strayClk .done).trans (by simp [hdone])
    · obtain rfl | rfl := hev
      · exact herr
      · exact (b.event_raise .strayClk .err).trans (by simp [herr])

theorem length_shiftChain (v : Level) (chain : List Level) : (shiftChain v chain).length = chain.length := by
  simp [shiftChain]

/-- The synchronisers after the start of a clk cycle: the chains are as long as they were, and sck_prev remembers the
output of sck_i's. -/
theorem Block.SyncInv.begun_sync (h : b.SyncInv) (p : Pins) (slip : Option Level) :
    (b.begun p slip).sync.hs.length = b.cfg.syncStages ∧ (b.begun p slip).sync.data.length = b.cfg.syncStages ∧
      (b.begun p slip).sync.sck.length = b.cfg.syncStages ∧
      (b.begun p slip).sync.sckPrev = lastStage (b.begun p slip).sync.sck := by
  obtain ⟨hhs, hdata, hsck, -, hprev⟩ := h
  cases hrole : b.cfg.role with
  | initiator =>
    rw [Block.begun_of_initiator hrole]
    simp [Block.syncShift, hrole, length_shiftChain, hhs, hdata, hsck, hprev]
  | responder =>
    have hq : (b.begun p slip).sync.sckPrev = (b.syncShift p slip).sckSample := by
      simp [Block.begun, Block.edgeEngine, Block.syncShift, hrole]
    obtain ⟨ev, x, d, q, -, he⟩ := (b.syncShift p slip).edgeEngine_eq
    rw [Block.begun, he] at hq ⊢
    replace hq : q = (b.syncShift p slip).sckSample := hq
    simp [Block.syncShift, hrole, length_shiftChain, hhs, hdata, hsck, hq, Block.sckSample]

/-- Every step of the clock keeps the invariant. -/
theorem Block.Inv.clkStep (h : b.Inv) (p : Pins) (slip : Option Level) : (b.clkStep p slip).Inv := by
  cases hr : b.rstN with
  | false =>
    rw [Block.clkStep_reset p slip hr]
    exact Block.inv_reset h.cfgWf _ _
  | true =>
    have hcfg : (b.clkStep p slip).cfg = b.cfg := b.cfg_clkStep p slip
    cases hm : b.seq.mid with
    | true =>
      have hredraw : (b.redraw slip).StepInv :=
        h.stepInv.congr ⟨h.bufWf, h.bufWithin, h.initiator, h.responder⟩ rfl rfl rfl rfl id
      obtain ⟨hstep, hmid, hone⟩ := hredraw.seqStep
      rw [Block.clkStep_mid p slip hr hm] at hcfg ⊢
      refine .of_parts (hcfg ▸ h.cfgWf) ?_ hstep hmid (by rwa [hcfg])
      obtain ⟨hhs, hdata, hsck, hprev, hsckPrev⟩ := h.syncInv
      rw [← hcfg] at hhs hdata hsck
      constructor <;> rwa [Block.sync_seqStep]
    | false =>
      obtain ⟨hstep, hmid, hone⟩ := (h.stepInv.begun p slip).seqStep
      obtain ⟨hhs, hdata, hsck, hsckPrev⟩ := h.syncInv.begun_sync p slip
      have hbegun : (b.begun p slip).cfg = b.cfg := Block.cfg_of_standing (b.begun_keeps p slip).1
      rw [Block.clkStep_begins p slip hr hm, ← Block.begun] at hcfg ⊢
      rw [← hcfg] at hhs hdata hsck
      refine .of_parts (hcfg ▸ h.cfgWf) ?_ (hstep.congr ?_ rfl rfl rfl rfl id) hmid ?_
      · have hsync : ((b.begun p slip).seqStep.latchPrev).sync =
            { (b.begun p slip).sync with hsPrev := lastStage (b.begun p slip).sync.hs } := by
          rw [Block.latchPrev_sync, Block.hsSample, Block.sync_seqStep]
        constructor <;> rw [hsync] <;> assumption
      · exact ⟨hstep.data.bufWf, hstep.data.bufWithin, hstep.data.initiator, hstep.data.responder⟩
      · rw [hcfg, ← hbegun]
        exact hone

end

end Sys2Proof.Machine
end

section
/-! SUPPORT. Every host access keeps the invariant of its block, and every step that of the bus (20_memory.md R103 to
R105). -/

namespace Sys2Proof.Machine

/-! ## A host access -/

section
variable {b : Block}

/-- What a host's write to a register leaves of the invariant: all of it, if it leaves an unfinished result unfinished
and sets no STRAY_CLK on an initiator. -/
theorem Block.Inv.withRegs (h : b.Inv) (r : Regs) (hrun : b.unfinished → ({ b with regs := r } : Block).unfinished)
    (hstray : b.event .strayClk = false → ({ b with regs := r } : Block).event .strayClk = false) :
    ({ b with regs := r } : Block).Inv :=
  { h with
    running := fun hb => hrun (h.running hb)
    initiator := fun hr => have ⟨harmed, hdone, hst⟩ := h.initiator hr; ⟨harmed, hdone, hstray hst⟩ }

/-- The events that only host writes raise. -/
theorem Block.Inv.raise (h : b.Inv) {e : EventBit} (he : e = .cmdIgnored ∨ e = .wrIgnored) : (b.raise e).Inv := by
  refine h.withRegs _ (fun ⟨hcode, hdone, herr⟩ => ⟨hcode, ?_, ?_⟩) fun hstray => ?_
  · exact (b.event_raise e .done).trans (by rcases he with rfl | rfl <;> simp [hdone])
  · exact (b.event_raise e .err).trans (by rcases he with rfl | rfl <;> simp [herr])
  · exact (b.event_raise e .strayClk).trans (by rcases he with rfl | rfl <;> simp [hstray])

theorem Block.Inv.clearEvents (h : b.Inv) (v : Word) : (b.clearEvents v).Inv := by
  have hclear (e : EventBit) (he : b.event e = false) : (b.clearEvents v).event e = false := by
    rw [Block.event, Block.getLsbD_clearEvents b v (by cases e <;> decide), show b.regs.events.getLsbD _ = false from he,
      Bool.false_and]
  exact h.withRegs _ (fun ⟨hcode, hdone, herr⟩ => ⟨hcode, hclear _ hdone, hclear _ herr⟩) (hclear _)

theorem Block.Inv.guarded {w : Block} (h : b.Inv) (hw : w.Inv) : (b.guarded w).Inv := by
  unfold Block.guarded
  split
  · exact h.raise (.inr rfl)
  · exact hw

/-- CTRL.SRST leaves an idle block with its counters and lines at rest (70_reset_and_hazards.md R372). -/
theorem Block.Inv.softReset (h : b.Inv) : b.softReset.Inv := by
  refine .of_parts h.cfgWf ⟨h.hsStages, h.dataStages, h.sckStages, h.hsPrevTracks, h.sckPrevTracks⟩
    ⟨⟨h.bufWf, h.bufWithin, fun _ => ⟨rfl, rfl, ?_⟩, fun _ => rfl⟩, .of_idle rfl rfl rfl, nofun⟩ nofun fun _ => rfl
  exact BitVec.getLsbD_zero

theorem Block.Inv.refuse (h : b.Inv) (hb : b.busy = false) (op : BitVec 5) (c : ResultCode) : (b.refuse op c).Inv := by
  have hstray : (b.refuse op c).event .strayClk = b.event .strayClk :=
    ((Block.event_raise _ .err .strayClk).trans (Bool.or_false _)).trans
      ((Block.event_raise _ .done .strayClk).trans (Bool.or_false _))
  exact { h with
    running := fun hb' => absurd (hb.symm.trans hb') Bool.false_ne_true
    initiator := fun hr => have ⟨harmed, hdone, hst⟩ := h.initiator hr; ⟨harmed, hdone, hstray.trans hst⟩ }

/-- An idle block that meets the invariant has its half-period count at rest. -/
theorem Block.Inv.hph_of_idle (h : b.Inv) (hb : b.busy = false) : b.xp.hph = 0#16 := by
  refine h.holdRest ?_
  cases hp : b.seq.prog with
  | idle => rfl
  | run ls => simp [Block.busy, hp] at hb

/-- An accepted operation starts on an unfinished result, at lines its block can be sent to (30_encoding.md R124). -/
theorem Block.Inv.accept (h : b.Inv) (hb : b.busy = false) {i : Instr} {prog : List Line}
    (hprog : Runnable b.cfg prog) : (b.accept i prog).Inv := by
  refine .of_parts h.cfgWf ⟨h.hsStages, h.dataStages, h.sckStages, h.hsPrevTracks, h.sckPrevTracks⟩
    ⟨⟨h.bufWf, h.bufWithin, fun hr => ?_, h.responder⟩, .goto_of_runnable hprog (h.tmr_of_idle hb) (h.hph_of_idle hb),
      fun _ => ?_⟩ nofun fun _ => rfl
  · obtain ⟨harmed, hdone, hstray⟩ := h.initiator hr
    refine ⟨harmed, hdone, ?_⟩
    rw [← hstray]
    simp [Block.accept, Block.event, EventBit.mask, EventBit.index]
  · simp [Block.accept, Block.unfinished, Block.event, EventBit.mask, EventBit.index, Result.zero]

theorem Block.Inv.submit (h : b.Inv) {i : Instr} : (b.submit i (programOf b.cfg i)).Inv := by
  rcases b.submit_cases i (programOf b.cfg i) with ⟨-, hs⟩ | ⟨hb, -, hs⟩ | ⟨hb, hc, hs⟩ <;> rw [hs]
  · exact h.raise (.inl rfl)
  · exact h.refuse hb _ _
  · exact h.accept hb (programOf_runnable ((b.check_ok_iff i).mp hc).1)

theorem Block.Inv.submitWord (h : b.Inv) (w : Word) : (b.submitWord w).Inv := by
  unfold Block.submitWord
  split
  · exact h.submit
  · split
    · exact h.raise (.inl rfl)
    · next hb => exact h.refuse (eq_false_of_ne_true hb) _ _

/-- Every register write keeps the invariant. -/
theorem Block.Inv.writeReg (h : b.Inv) (off : Nat) (v : Word) : (b.writeReg off v).Inv := by
  unfold Block.writeReg
  split
  case h_1 => -- CTRL
    split
    · exact h.softReset
    · exact h
  case h_2 => exact h.submitWord v  -- CMD
  case h_3 => exact h.clearEvents v  -- EVENTS
  case h_4 => exact h.withRegs _ id id  -- IRQ_EN
  case h_11 => exact h  -- the offsets that hold nothing a host writes
  all_goals exact h.guarded (h.withRegs _ id id)

theorem region_eq_buffer {c : Config} {off : Nat} (h : region c off = .buffer) :
    0x400 ≤ off ∧ off < 0x400 + c.bufSize.bytes := by
  by_contra hout
  have hother : region c off = .registers ∨ region c off = .reserved := region_outside hout
  rw [h] at hother
  simp at hother

/-- A write to the buffer stays in it (20_memory.md R94, R103). -/
theorem Block.Inv.hostWrite (h : b.Inv) (off n : Nat) (v : Word) : (b.hostWrite off n v).Inv := by
  unfold Block.hostWrite
  split
  · exact h
  · split
    · exact h
    · next hok =>
      split
      · next hregion =>
        have hwithin : ({ b with buf := b.buf.writeBytes off v n } : Block).buf.within b.cfg.bufSize.bytes = true := by
          have hin : 0x400 ≤ off ∧ off < 0x400 + b.cfg.bufSize.bytes := region_eq_buffer hregion
          rw [Bool.not_eq_true', Bool.not_eq_false, accessOk_buffer n hin] at hok
          exact Memory.within_writeBytes n off v hin.1 hok.2.2 h.bufWithin
        exact h.guarded { h with bufWf := Memory.wf_writeBytes n off v h.bufWf, bufWithin := hwithin }
      · exact h.writeReg off v
      · exact h

theorem Block.Inv.access (h : b.Inv) (a : Access) : (b.access a).Inv := by
  cases a with
  | read addr n => exact h
  | write addr n v => exact h.hostWrite _ n v

end

/-! ## Whose the unwritten bytes are -/

theorem Block.bufEpoch_guarded {b w : Block} (h : w.bufEpoch = b.bufEpoch) : (b.guarded w).bufEpoch = b.bufEpoch := by
  unfold Block.guarded
  split
  · rfl
  · exact h

theorem Block.bufEpoch_submit (b : Block) (i : Instr) (prog : List Line) :
    (b.submit i prog).bufEpoch = b.bufEpoch := by
  rcases b.submit_cases i prog with ⟨-, h⟩ | ⟨-, -, h⟩ | ⟨-, -, h⟩ <;> rw [h] <;> rfl

theorem Block.bufEpoch_writeReg (b : Block) (off : Nat) (v : Word) : (b.writeReg off v).bufEpoch = b.bufEpoch := by
  unfold Block.writeReg
  split
  case h_1 => split <;> rfl  -- CTRL
  case h_2 =>  -- CMD
    unfold Block.submitWord
    split
    · exact b.bufEpoch_submit _ _
    · split <;> rfl
  case h_3 | h_4 | h_11 => rfl  -- EVENTS, IRQ_EN and the offsets that hold nothing a host writes
  all_goals exact Block.bufEpoch_guarded rfl

theorem Block.bufEpoch_hostWrite (b : Block) (off n : Nat) (v : Word) :
    (b.hostWrite off n v).bufEpoch = b.bufEpoch := by
  unfold Block.hostWrite
  split
  · rfl
  · split
    · rfl
    · split
      · exact Block.bufEpoch_guarded rfl
      · exact b.bufEpoch_writeReg off v
      · rfl

@[simp] theorem Block.bufEpoch_runLine (b : Block) (l : Line) (rest : List Line) :
    (b.runLine l rest).bufEpoch = b.bufEpoch := by
  cases l with
  | delay d => simp only [Block.runLine]; unfold Block.delayCycle; split <;> [skip; split] <;> rfl
  | hold => simp only [Block.runLine]; unfold Block.holdCycle; split <;> rfl
  | loadSh v => cases v <;> rfl
  | armSh v => cases v <;> rfl
  | awaitHs a | awaitByte | testOverrun | xportSck => simp only [Block.runLine]; split <;> rfl
  | waitFinish k => simp only [Block.runLine]; split <;> simp
  | driveOeFinish v | driveHsFinish | finish c | finishMatchB | finishMatchData => simp [Block.runLine]
  | _ => rfl

@[simp] theorem Block.bufEpoch_seqStep (b : Block) : b.seqStep.bufEpoch = b.bufEpoch :=
  Block.seqStep_induct (P := fun x => x.bufEpoch = b.bufEpoch) rfl (fun _ => by simp) (fun _ _ _ _ => by simp)
    (fun _ _ h => h)

/-- A step of the clock leaves the unwritten bytes to their block, in a reset too (log 2). -/
theorem Block.side_clkStep (b : Block) (p : Pins) (slip : Option Level) :
    (b.clkStep p slip).bufEpoch.side = b.bufEpoch.side := by
  cases hr : b.rstN with
  | false => rw [Block.clkStep_reset p slip hr]; rfl
  | true =>
    cases hm : b.seq.mid with
    | true => rw [Block.clkStep_mid p slip hr hm, Block.bufEpoch_seqStep]; rfl
    | false =>
      obtain ⟨ev, x, d, q, -, he⟩ := (b.syncShift p slip).edgeEngine_eq
      rw [Block.clkStep_begins p slip hr hm, Block.latchPrev_bufEpoch, Block.bufEpoch_seqStep, he]
      rfl

/-! ## An event -/

theorem State.side_act (s : State) (b : Block) (e : Event) : (s.act b e).bufEpoch.side = b.bufEpoch.side := by
  cases e with
  | clk side p => exact b.side_clkStep _ _
  | host side a =>
    cases a with
    | read addr n => rfl
    | write addr n v => exact congrArg _ (b.bufEpoch_hostWrite _ n v)
  | clkClear side p v => exact (Block.side_clkStep _ _ _).trans (congrArg _ (b.bufEpoch_hostWrite _ _ v))
  | rst side level => rfl

theorem State.act_inv (s : State) {b : Block} (h : b.Inv) (e : Event) : (s.act b e).Inv := by
  cases e with
  | clk side p => exact h.clkStep _ _
  | host side a => exact h.access a
  | clkClear side p v => exact (h.hostWrite _ _ v).clkStep _ _
  | rst side level => exact { h with }

/-! ## The bus -/

/-- The invariant of the bus is the blocks', the record's and that of the unwritten bytes' owners: an update of one side
that keeps these, noted, keeps it. -/
theorem State.Inv.set_note {s : State} {side : Side} {b b' : Block} (h : s.Inv) (hget : s.get side = some b)
    (hinv : b'.Inv) (hside : b'.bufEpoch.side = b.bufEpoch.side) : (s.set side b').note.Inv := by
  obtain ⟨hnear, hfar, -, hn, hf⟩ := h
  have hnoted {t : State} : t.note.contending = true → t.note.contention = true := fun hc => by
    rw [State.note_contention, show t.contending = true from hc, Bool.or_true]
  cases side with
  | near =>
    cases hget
    exact ⟨hinv, hfar, hnoted, hside.trans hn, hf⟩
  | far =>
    have hfar' : (s.set .far b').far = some b' := State.get_set_same (side := .far) b' hget
    refine ⟨hnear, fun f hf' => ?_, hnoted, hn, fun f hf' => ?_⟩ <;> cases hfar'.symm.trans hf'
    · exact hinv
    · exact hside.trans (hf b hget)

/-- The invariant looks at the blocks and the record alone. -/
theorem State.Inv.congr {s t : State} (h : s.Inv) (hnear : t.near = s.near) (hfar : t.far = s.far)
    (hc : t.contention = s.contention) : t.Inv := by
  obtain ⟨near, far, contention, pace, draws, env, port, replies⟩ := t
  subst hnear hfar hc
  exact ⟨h.near, h.far, h.noted, h.nearBytes, h.farBytes⟩

theorem State.Inv.get {s : State} {side : Side} {b : Block} (h : s.Inv) (hget : s.get side = some b) : b.Inv := by
  cases side with
  | near => cases hget; exact h.near
  | far => exact h.far b hget

/-- Every event keeps the invariant. -/
theorem State.Inv.apply {s : State} (h : s.Inv) (e : Event) : (s.apply e).Inv := by
  cases hget : s.get e.side with
  | none => rwa [State.apply_of_absent hget]
  | some b =>
    rw [State.apply_of_get hget]
    exact (h.set_note hget (s.act_inv (h.get hget) e) (s.side_act b e)).congr rfl rfl rfl

/-- Settles O58: each event keeps each part of the invariant, line by line, and a submission starts at lines that a block
can be sent to. -/
theorem stepKeepsInvariant : Obligations.StepKeepsInvariant := by
  unfold Obligations.StepKeepsInvariant
  intro s t
  refine step_induct (fun s es port rs h => h.congr rfl rfl rfl) (fun s i b hget h => ?_) fun s e h => h.apply e
  exact h.set_note hget (h.get hget).submit (congrArg _ (b.bufEpoch_submit _ _))

end Sys2Proof.Machine
end

section
/-! SUPPORT. A block over a number of clock steps, with any levels at its pins and any draws, and the run of an accepted
operation over steps of its block's clock, alone or on a bus. -/

namespace Sys2Proof.Machine

/-- The block is busy before each of `n` steps of its clock, whatever the pins and the draws, and `Q` holds after them. -/
def Block.After : Nat → (Block → Prop) → Block → Prop
  | 0, Q, b => Q b
  | n + 1, Q, b => b.busy = true ∧ ∀ p slip, (b.clkStep p slip).After n Q

namespace Block.After

variable {n m : Nat} {P Q : Block → Prop} {b : Block}

/-- Runs of steps one after the other. -/
theorem trans (h : b.After n P) (hPQ : ∀ x, P x → Block.After m Q x) : b.After (n + m) Q := by
  induction n generalizing b with
  | zero => rw [Nat.zero_add]; exact hPQ b h
  | succ n ih =>
    rw [Nat.succ_add]
    exact ⟨h.1, fun p slip => ih (h.2 p slip)⟩

/-- A property counted in steps, which each of `N` steps of a busy block takes on by one. -/
theorem of_step {N : Nat} {P : Nat → Block → Prop}
    (hstep : ∀ r x, r < N → P r x → x.busy = true ∧ ∀ p slip, P (r + 1) (x.clkStep p slip)) :
    ∀ n r, r + n ≤ N → ∀ {b : Block}, P r b → Block.After n (P (r + n)) b := by
  intro n
  induction n with
  | zero => exact fun _ _ _ h => h
  | succ n ih =>
    intro r hN b h
    obtain ⟨hbusy, hnext⟩ := hstep r b (by omega) h
    refine ⟨hbusy, fun p slip => ?_⟩
    rw [show r + (n + 1) = r + 1 + n by omega]
    exact ih (r + 1) (by omega) (hnext p slip)

end Block.After

/-- On its bus, a block that is busy over as many steps as the schedule has takes them all. -/
theorem State.runWhile_clks {side : Side} {Q : Block → Prop} (ps : List Pins) :
    ∀ {s : State} {b : Block}, s.get side = some b → b.After ps.length Q →
      ∃ b', (State.runWhile side (clks side ps) s).get side = some b' ∧ Q b' := by
  induction ps with
  | nil =>
    intro s b hget h
    exact ⟨b, by rw [clks, List.map_nil, State.runWhile_nil, State.get_withEnv, hget], h⟩
  | cons p ps ih =>
    intro s b hget h
    have hrun : s.running side = true := by rw [State.running, hget]; exact h.1
    have hpresent : s.present (.clk side p) = true := by rw [State.present, Event.side, hget]; rfl
    have hnext : (s.apply (.clk side p)).get side = some (b.clkStep (s.pinsAt side b p) (s.slip side)) :=
      State.get_apply_same (e := .clk side p) hget
    rw [clks, List.map_cons, State.runWhile_cons _ hrun hpresent]
    exact ih hnext (h.2 _ _)

/-- An accepted operation over steps of its block's clock is that many steps of the accepting block. -/
theorem exec_clks {s : State} {i : Instr} {b : Block} {ps : List Pins} {Q : Block → Prop} (h : s.readyFor i b)
    (henv : s.env = clks s.port ps) (hafter : (b.accept i (programOf b.cfg i)).After ps.length Q) :
    ∃ t b', exec i s = .next t ∧ t.get s.port = some b' ∧ Q b' := by
  obtain ⟨⟨hget, hr, hb⟩, hcheck⟩ := h
  have hsubmit : b.submit i (programOf b.cfg i) = b.accept i (programOf b.cfg i) := by
    simp [Block.submit, hb, hcheck]
  set s1 := (s.set s.port (b.accept i (programOf b.cfg i))).note
  have hexec : exec i s = .next (State.runWhile s.port s1.env s1) := by
    simp [exec_eq_operate, State.operate, hget, hr, hb, hsubmit, s1]
  have henv1 : s1.env = clks s.port ps := by simp [s1, henv]
  have hget1 : s1.get s.port = some (b.accept i (programOf b.cfg i)) := by
    rw [State.note_get, State.get_set_same _ hget]
  obtain ⟨b', hb', hQ⟩ := State.runWhile_clks ps hget1 hafter
  exact ⟨_, b', hexec, by rw [henv1, hb'], hQ⟩

/-- The block with other synchronisers. -/
def Block.withSync (b : Block) (y : Sync) : Block := { b with sync := y }

/-- A clk cycle of an initiator is its next line's, on synchronisers that have shifted. -/
theorem Block.clkStep_initiator {b : Block} {l : Line} {rest : List Line} (p : Pins) (slip : Option Level)
    (hr : b.rstN = true) (hm : b.seq.mid = false) (hrole : b.cfg.role = .initiator)
    (hp : b.seq.prog = .run (l :: rest)) (hf : b.flows l = false) :
    ∃ y, b.clkStep p slip = ((b.withSync y).runLine l rest).latchPrev := by
  have hbegun := Block.begun_of_initiator hrole p slip
  have hflow : (b.begun p slip).flows l = false := by rw [hbegun, ← hf]; cases l <;> rfl
  exact ⟨(b.syncShift p slip).sync, by rw [Block.clkStep_line p slip hr hm hp hflow, hbegun]; rfl⟩

/-- The next line of an initiator is the first of the cycles to come. -/
theorem Block.After.line {b : Block} {l : Line} {rest : List Line} {n : Nat} {Q : Block → Prop} (hr : b.rstN = true)
    (hm : b.seq.mid = false) (hrole : b.cfg.role = .initiator) (hp : b.seq.prog = .run (l :: rest))
    (hf : b.flows l = false) (h : ∀ y, ((b.withSync y).runLine l rest).latchPrev.After n Q) :
    b.After (n + 1) Q := by
  refine ⟨by simp [Block.busy, hp], fun p slip => ?_⟩
  obtain ⟨y, hy⟩ := Block.clkStep_initiator p slip hr hm hrole hp hf
  rw [hy]
  exact h y

end Sys2Proof.Machine
end

section
/-! SUPPORT. An initiator's WRITE_BYTE clk cycle by clk cycle (40_transport.md R170 to R172, R180): where each bit period
stands after n of its cycles, and what is on CLK and DATA then. -/

namespace Sys2Proof.Machine

/-! ## A bit period in its two halves -/

theorem toNat_succ_of_eq {x : Half} {n : Nat} (h : x.toNat = n) (hn : n + 1 < 2 ^ 16) : (x + 1#16).toNat = n + 1 := by
  rw [toNat_succ_of_lt (by omega), h]

/-- The lines of the low half before its hold. -/
def lowLines : List Line := [.sckLow, .putBit]

/-- The lines of the high half before its hold. -/
def highLines : List Line := [.sckHigh, .takeBit .wr, .shiftBit, .countBit]

/-- `m` bit periods and what follows the last one in WRITE_BYTE. -/
def bitsToCome (m : Nat) : List Line :=
  (List.replicate m (bitPeriod .wr)).flatten ++ [.delay .byteSettle, .count 1, .finish .ok]

theorem bitsToCome_succ (m : Nat) :
    bitsToCome (m + 1) = lowLines ++ .hold :: (highLines ++ .hold :: bitsToCome m) := rfl

/-- The lines of WRITE_BYTE before the first bit period. -/
def openingLines : List Line := [.readData, .driveOe true, .loadSh .locB]

theorem writeByteProg_initiator :
    writeByteProg .initiator = openingLines ++ bitsToCome 8 := rfl

/-- SH holds the bits of `v` from bit k on, lowest first. -/
def HoldsFrom (v sh : Byte) (k : Nat) : Prop := ∀ j, k + j < 8 → sh.getLsbD j = v.getLsbD (k + j)

theorem HoldsFrom.bit {v sh : Byte} {k : Nat} (h : HoldsFrom v sh k) (hk : k < 8) : sh.getLsbD 0 = v.getLsbD k := h 0 hk

/-- A shift right brings up the next bit (40_transport.md R172). -/
theorem HoldsFrom.shiftIn {v sh : Byte} {k : Nat} (h : HoldsFrom v sh k) (d : Level) :
    HoldsFrom v (shiftIn d sh) (k + 1) := by
  intro j hj
  have hshift : (Machine.shiftIn d sh).getLsbD j = sh.getLsbD (1 + j) := by
    rw [Machine.shiftIn, BitVec.getLsbD_append, if_pos (by omega), BitVec.getLsbD_extractLsb']
    simp [show j < 7 by omega]
  rw [hshift, h (1 + j) (by omega), Nat.add_assoc]

/-- What the initiator `b0` keeps while it sends: its settings, one step a cycle, DATA driven, its handshake line. -/
structure Block.Sends (b0 b : Block) : Prop where
  settings : b.settings = b0.settings
  mid : b.seq.mid = false
  dataOe : b.out.dataOe = true
  hsO : b.out.hsO = b0.out.hsO

/-- Bit period k of `b0`'s byte `v`, n cycles into its low half (40_transport.md R172): CLK is low from the first cycle
on and the bit is on DATA from the second on. HPH counts the cycles of the half. -/
structure Block.LowHalf (b0 : Block) (v : Byte) (k n : Nat) (b : Block) : Prop where
  keeps : b0.Sends b
  lt : n < b0.lowHalf .wr
  prog : b.seq.prog = .run (lowLines.drop n ++ .hold :: (highLines ++ .hold :: bitsToCome (7 - k)))
  hph : b.xp.hph.toNat = n
  sh : HoldsFrom v b.xp.sh k
  sck : 1 ≤ n → b.out.sckO = false
  data : 2 ≤ n → b.out.dataO = v.getLsbD k

/-- The same period, r cycles into its high half: CLK is high from the first cycle on, the bit stays on DATA, and the
third cycle shifts SH. -/
structure Block.HighHalf (b0 : Block) (v : Byte) (k r : Nat) (b : Block) : Prop where
  keeps : b0.Sends b
  lt : r < b0.highHalf
  prog : b.seq.prog = .run (highLines.drop r ++ .hold :: bitsToCome (7 - k))
  hph : b.xp.hph.toNat = r
  sh : HoldsFrom v b.xp.sh (if r ≤ 2 then k else k + 1)
  sck : b.out.sckO = decide (1 ≤ r)
  data : b.out.dataO = v.getLsbD k

/-- The end of that period: the next one, or the settle delay, is to come. -/
structure Block.BitSent (b0 : Block) (v : Byte) (k : Nat) (b : Block) : Prop where
  keeps : b0.Sends b
  prog : b.seq.prog = .run (b.dropZero (bitsToCome (7 - k)))
  hph : b.xp.hph.toNat = 0
  sh : HoldsFrom v b.xp.sh (k + 1)
  sck : b.out.sckO = true
  data : b.out.dataO = v.getLsbD k

/-- Bit period k after n of its cycles. -/
inductive Block.SendsBit (b0 : Block) (v : Byte) (k n : Nat) (b : Block) : Prop
  | low (h : b0.LowHalf v k n b)
  | high (r : Nat) (hn : n = b0.lowHalf .wr + r) (h : b0.HighHalf v k r b)
  | done (hn : n = b0.bitCycles .wr) (h : b0.BitSent v k b)

section
variable {b0 b : Block} {v : Byte} {k n : Nat}

theorem Block.Sends.rstN (h : b0.Sends b) : b.rstN = b0.rstN := congrArg (·.2.1) h.settings
theorem Block.Sends.cfg (h : b0.Sends b) : b.cfg = b0.cfg := congrArg (·.1) h.settings
theorem Block.Sends.clkdiv (h : b0.Sends b) : b.regs.clkdiv = b0.regs.clkdiv := congrArg (·.2.2.2.2.1) h.settings

/-- What a line that leaves the ownership of DATA and the handshake line alone keeps. -/
theorem Block.Sends.runLine (h : b0.Sends b) (y : Sync) (l : Line) (rest : List Line)
    (hout : ((b.withSync y).runLine l rest).out.dataOe = b.out.dataOe ∧
      ((b.withSync y).runLine l rest).out.hsO = b.out.hsO) :
    b0.Sends ((b.withSync y).runLine l rest).latchPrev where
  settings := by
    rw [Block.settings_latchPrev, Block.settings_runLine, ← h.settings]
    rfl
  mid := by
    rw [Block.latchPrev_seq, Block.mid_runLine]
    exact h.mid
  dataOe := hout.1.trans h.dataOe
  hsO := hout.2.trans h.hsO

/-- The block runs throughout the period. -/
theorem Block.SendsBit.busy (h : b0.SendsBit v k n b) : b.busy = true := by
  cases h with
  | low h => simp [Block.busy, h.prog]
  | high r hn h => simp [Block.busy, h.prog]
  | done hn h => simp [Block.busy, h.prog]

theorem Block.bitCycles_eq (b : Block) :
    b.lowHalf .wr = max (b.regs.clkdiv.toNat + 1) 3 ∧ b.highHalf = max (b.regs.clkdiv.toNat + 1) 5 ∧
      b.bitCycles .wr = b.lowHalf .wr + b.highHalf := ⟨rfl, rfl, rfl⟩

/-- The next period begins where one is done. -/
theorem Block.SendsBit.next (hk : k < 7) (h : b0.SendsBit v k (b0.bitCycles .wr) b) : b0.LowHalf v (k + 1) 0 b := by
  obtain ⟨hlow, hhigh, hbit⟩ := b0.bitCycles_eq
  cases h with
  | low h => have := h.lt; omega
  | high r hn h => have := h.lt; omega
  | done hn h =>
    obtain ⟨keeps, prog, hph, sh, -, -⟩ := h
    rw [show 7 - k = 7 - (k + 1) + 1 by omega, bitsToCome_succ] at prog
    exact ⟨keeps, by omega, prog, hph, sh, by omega, by omega⟩

/-- A cycle in which the next line is `l` makes of the block what `l` does. -/
theorem Block.Sends.clkStep_line {l : Line} {rest : List Line} {Q : Block → Prop} (hrst : b0.rstN = true)
    (hrole : b0.cfg.role = .initiator) (h : b0.Sends b) (hp : b.seq.prog = .run (l :: rest)) (hf : b.flows l = false)
    (p : Pins) (slip : Option Level) (hQ : ∀ y, Q (((b.withSync y).runLine l rest).latchPrev)) :
    Q (b.clkStep p slip) := by
  obtain ⟨y, hy⟩ :=
    Block.clkStep_initiator p slip (h.rstN.trans hrst) h.mid ((congrArg _ h.cfg).trans hrole) hp hf
  rw [hy]
  exact hQ y

/-- A cycle of the hold: the half goes on, or has had its cycles. -/
theorem Block.Sends.clkStep_hold (hrst : b0.rstN = true) (hrole : b0.cfg.role = .initiator) (h : b0.Sends b)
    {rest : List Line} (hp : b.seq.prog = .run (.hold :: rest)) (p : Pins) (slip : Option Level) :
    let x := b.clkStep p slip
    b0.Sends x ∧ x.out = b.out ∧ x.xp.sh = b.xp.sh ∧
      (if b.xp.hph.toNat < b0.regs.clkdiv.toNat
        then x.seq.prog = .run (.hold :: rest) ∧ x.xp.hph.toNat = b.xp.hph.toNat + 1
        else x.seq.prog = .run (x.dropZero rest) ∧ x.xp.hph.toNat = 0) := by
  obtain ⟨y, hy⟩ :=
    Block.clkStep_initiator p slip (h.rstN.trans hrst) h.mid ((congrArg _ h.cfg).trans hrole) hp rfl
  have hkeeps := h.runLine y .hold rest
  rw [hy]
  simp only [Block.withSync, Block.runLine, Block.holdCycle, BitVec.lt_def, h.clkdiv] at hkeeps ⊢
  split
  · next hlt =>
    have := b0.regs.clkdiv.isLt
    simp only [hlt, if_true] at hkeeps
    exact ⟨hkeeps ⟨rfl, rfl⟩, rfl, rfl, rfl, toNat_succ_of_eq rfl (by omega)⟩
  · next hlt =>
    simp only [hlt, if_false] at hkeeps
    exact ⟨hkeeps ⟨rfl, rfl⟩, rfl, rfl,
      congrArg Prog.run (Block.dropZero_congr (fun d => by cases d <;> rfl) rest), rfl⟩

/-- A cycle of the low half: the falling edge, the bit on DATA, or one of the hold. -/
theorem Block.LowHalf.clkStep (hrst : b0.rstN = true) (hrole : b0.cfg.role = .initiator) (hk : k < 8)
    (h : b0.LowHalf v k n b) (p : Pins) (slip : Option Level) : b0.SendsBit v k (n + 1) (b.clkStep p slip) := by
  obtain ⟨hlow, hhigh, -⟩ := b0.bitCycles_eq
  obtain ⟨keeps, hn, prog, hph, sh, sck, data⟩ := h
  match n with
  | 0 =>
    exact .low (keeps.clkStep_line hrst hrole prog rfl p slip fun y => ⟨keeps.runLine y _ _ ⟨rfl, rfl⟩, by omega, rfl,
      toNat_succ_of_eq hph (by decide), sh, fun _ => rfl, by omega⟩)
  | 1 =>
    exact .low (keeps.clkStep_line hrst hrole prog rfl p slip fun y => ⟨keeps.runLine y _ _ ⟨rfl, rfl⟩, by omega, rfl,
      toNat_succ_of_eq hph (by decide), sh, fun _ => sck le_rfl, fun _ => sh.bit hk⟩)
  | n + 2 =>
    have hp : b.seq.prog = .run (.hold :: (highLines ++ .hold :: bitsToCome (7 - k))) := by
      simpa [lowLines] using prog
    obtain ⟨hkeeps, hout, hsh, hnext⟩ := keeps.clkStep_hold hrst hrole hp p slip
    rw [← hsh] at sh
    rw [← hout] at sck data
    split at hnext
    · exact .low ⟨hkeeps, by omega, by simpa [lowLines] using hnext.1, hnext.2.trans (by omega), sh,
        fun _ => sck (by omega), fun _ => data (by omega)⟩
    · exact .high 0 (by omega) ⟨hkeeps, by omega, hnext.1, hnext.2, sh, sck (by omega), data (by omega)⟩

/-- A cycle of the high half: the rising edge, the bit taken, the shift, the count, or one of the hold. -/
theorem Block.HighHalf.clkStep {r : Nat} (hrst : b0.rstN = true) (hrole : b0.cfg.role = .initiator)
    (h : b0.HighHalf v k r b) (p : Pins) (slip : Option Level) :
    b0.SendsBit v k (b0.lowHalf .wr + r + 1) (b.clkStep p slip) := by
  obtain ⟨hlow, hhigh, hbit⟩ := b0.bitCycles_eq
  obtain ⟨keeps, hr, prog, hph, sh, sck, data⟩ := h
  match r with
  | 0 =>
    exact .high 1 rfl (keeps.clkStep_line hrst hrole prog rfl p slip fun y =>
      ⟨keeps.runLine y _ _ ⟨rfl, rfl⟩, by omega, rfl, toNat_succ_of_eq hph (by decide), sh, rfl, data⟩)
  | 1 =>
    exact .high 2 rfl (keeps.clkStep_line hrst hrole prog rfl p slip fun y =>
      ⟨keeps.runLine y _ _ ⟨rfl, rfl⟩, by omega, rfl, toNat_succ_of_eq hph (by decide), sh, sck, data⟩)
  | 2 =>
    exact .high 3 rfl (keeps.clkStep_line hrst hrole prog rfl p slip fun y =>
      ⟨keeps.runLine y _ _ ⟨rfl, rfl⟩, by omega, rfl, toNat_succ_of_eq hph (by decide), sh.shiftIn _, sck, data⟩)
  | 3 =>
    exact .high 4 rfl (keeps.clkStep_line hrst hrole prog rfl p slip fun y =>
      ⟨keeps.runLine y _ _ ⟨rfl, rfl⟩, by omega, rfl, toNat_succ_of_eq hph (by decide), sh, sck, data⟩)
  | r + 4 =>
    have hp : b.seq.prog = .run (.hold :: bitsToCome (7 - k)) := by simpa [highLines] using prog
    obtain ⟨hkeeps, hout, hsh, hnext⟩ := keeps.clkStep_hold hrst hrole hp p slip
    rw [← hsh, if_neg (by omega)] at sh
    rw [← hout, decide_eq_true (by omega : 1 ≤ r + 4)] at sck
    rw [← hout] at data
    split at hnext
    · exact .high (r + 5) rfl ⟨hkeeps, by omega, by simpa [highLines] using hnext.1, hnext.2.trans (by omega),
        by rwa [if_neg (by omega)], by rw [sck, decide_eq_true (by omega : 1 ≤ r + 5)], data⟩
    · exact .done (by omega) ⟨hkeeps, hnext.1, hnext.2, sh, sck, data⟩

/-- Each cycle of a bit period takes it on by one. -/
theorem Block.SendsBit.clkStep (hrst : b0.rstN = true) (hrole : b0.cfg.role = .initiator) (hk : k < 8)
    (hn : n < b0.bitCycles .wr) (h : b0.SendsBit v k n b) (p : Pins) (slip : Option Level) :
    b0.SendsBit v k (n + 1) (b.clkStep p slip) := by
  cases h with
  | low h => exact h.clkStep hrst hrole hk p slip
  | high r hr h =>
    subst hr
    exact h.clkStep hrst hrole p slip
  | done hdone => omega

/-! ## The operation up to a cycle of a bit period -/

/-- n cycles of a bit period. -/
theorem Block.LowHalf.after (hrst : b0.rstN = true) (hrole : b0.cfg.role = .initiator) (hk : k < 8)
    (h : b0.LowHalf v k 0 b) (hn : n ≤ b0.bitCycles .wr) : b.After n (b0.SendsBit v k n) := by
  have hrun := Block.After.of_step (N := b0.bitCycles .wr) (P := b0.SendsBit v k)
    (fun r x hr hx => ⟨hx.busy, fun p slip => hx.clkStep hrst hrole hk hr p slip⟩) n 0 (by omega) (.low h)
  rwa [Nat.zero_add] at hrun

/-- k bit periods. -/
theorem Block.LowHalf.after_periods (hrst : b0.rstN = true) (hrole : b0.cfg.role = .initiator)
    (h : b0.LowHalf v 0 0 b) (hk : k < 8) : b.After (k * b0.bitCycles .wr) (b0.LowHalf v k 0) := by
  induction k with
  | zero => rw [Nat.zero_mul]; exact h
  | succ k ih =>
    have hperiod (x : Block) (hx : b0.LowHalf v k 0 x) : x.After (b0.bitCycles .wr) (b0.LowHalf v (k + 1) 0) :=
      (hx.after hrst hrole (by omega) le_rfl).trans (m := 0) fun y hy => hy.next (by omega)
    rw [Nat.succ_mul]
    exact (ih (by omega)).trans hperiod

/-- The initiator `b0` after n of the opening lines (40_transport.md R172, R180): b holds the byte from the first on, DATA
is driven from the second on, and no cycle of CLK has been counted. -/
structure Block.Opens (b0 : Block) (n : Nat) (b : Block) : Prop where
  settings : b.settings = b0.settings
  mid : b.seq.mid = false
  hsO : b.out.hsO = b0.out.hsO
  hph : b.xp.hph = 0#16
  prog : b.seq.prog = .run (openingLines.drop n ++ bitsToCome 8)
  loaded : 1 ≤ n → b.seq.locs.b = b0.regs.data
  dataOe : 2 ≤ n → b.out.dataOe = true

/-- The next of the lines is the next cycle's. -/
theorem Block.Opens.after_line {l : Line} {rest : List Line} {Q : Block → Prop} (hrst : b0.rstN = true)
    (hrole : b0.cfg.role = .initiator) (h : b0.Opens n b) (hp : b.seq.prog = .run (l :: rest)) (hf : b.flows l = false)
    (hQ : ∀ y, Q (((b.withSync y).runLine l rest).latchPrev)) : b.After 1 Q :=
  .line ((congrArg (·.2.1) h.settings).trans hrst) h.mid ((congrArg (·.1.role) h.settings).trans hrole) hp hf hQ

/-- Over the three lines the block comes to the first bit period of its byte. -/
theorem Block.after_opening {arg : Half} {lvl : Bool} (h : b.Inv) (hrst : b.rstN = true) (hidle : b.busy = false)
    (hrole : b.cfg.role = .initiator) :
    (b.accept (.writeByte arg lvl) (writeByteProg .initiator)).After 3 (b.LowHalf b.regs.data 0 0) := by
  obtain ⟨hlow, -⟩ := b.bitCycles_eq
  have hstart : b.Opens 0 (b.accept (.writeByte arg lvl) (writeByteProg .initiator)) :=
    ⟨rfl, rfl, rfl, h.hph_of_idle hidle, rfl, by omega, by omega⟩
  have hread : (b.accept (.writeByte arg lvl) (writeByteProg .initiator)).After 1 (b.Opens 1) :=
    hstart.after_line hrst hrole hstart.prog rfl fun y =>
      ⟨rfl, rfl, rfl, h.hph_of_idle hidle, rfl, fun _ => rfl, by omega⟩
  have hdrive (x : Block) (hx : b.Opens 1 x) : x.After 1 (b.Opens 2) :=
    hx.after_line hrst hrole hx.prog rfl fun y =>
      ⟨hx.settings, hx.mid, hx.hsO, hx.hph, rfl, fun _ => hx.loaded le_rfl, fun _ => rfl⟩
  have hload (x : Block) (hx : b.Opens 2 x) : x.After 1 (b.LowHalf b.regs.data 0 0) := by
    have hsh : HoldsFrom b.regs.data x.seq.locs.b 0 := fun j _ => by rw [hx.loaded (by omega), Nat.zero_add]
    exact hx.after_line hrst hrole hx.prog rfl fun y =>
      ⟨⟨hx.settings, hx.mid, hx.dataOe le_rfl, hx.hsO⟩, by omega, rfl, congrArg BitVec.toNat hx.hph, hsh, by omega,
        by omega⟩
  exact (hread.trans hdrive).trans hload

end

/-- Settles O33: the run comes to bit period k and from there to the cycle asked for, which is in the low half, in the
high half or the period's last. -/
theorem initiatorWriteByteWaveform : Obligations.InitiatorWriteByteWaveform := by
  unfold Obligations.InitiatorWriteByteWaveform
  intro arg lvl s b ps k h hinv hrole henv hk start hstart hend
  obtain ⟨⟨-, hrst, hidle⟩, -⟩ := id h
  obtain ⟨hlow, hhigh, hbit⟩ := b.bitCycles_eq
  refine ⟨fun hdiv => by omega, ?_⟩
  have hperiods : (b.accept (.writeByte arg lvl) (writeByteProg .initiator)).After start (b.LowHalf b.regs.data k 0) :=
    (Block.after_opening hinv hrst hidle hrole).trans fun x hx => hx.after_periods hrst hrole hk
  have hafter := hperiods.trans fun x hx => hx.after hrst hrole hk (n := ps.length - start) (by omega)
  rw [show start + (ps.length - start) = ps.length by omega, ← hrole] at hafter
  obtain ⟨t, b', hexec, hget, hsends⟩ := exec_clks h henv hafter
  refine ⟨t, b', hexec, hget, hsends.busy, ?_⟩
  cases hsends with
  | low h =>
    exact ⟨h.keeps.dataOe, h.keeps.hsO, by rw [h.sck (by omega), decide_eq_false]; have := h.lt; omega,
      fun _ => h.data (by omega)⟩
  | high r hn h =>
    exact ⟨h.keeps.dataOe, h.keeps.hsO, h.sck.trans (decide_eq_decide.mpr (by omega)), fun _ => h.data⟩
  | done hn h =>
    exact ⟨h.keeps.dataOe, h.keeps.hsO, by rw [h.sck, decide_eq_true (by omega)], fun _ => h.data⟩

end Sys2Proof.Machine
end

section
/-! SUPPORT. The command word CMD32 (30_encoding.md R120 to R123, R128): what the decoder reads, said in both directions,
and that the encoder is its inverse. -/

namespace Sys2Proof

/-! ## The opcode map -/

/-- The opcode map reads back the OP of every operation. -/
theorem decodeOp_opcode (i : Instr) : decodeOp i.opcode i.arg i.lvl = .instr i := by
  cases i <;> rfl

/-- An operation that the opcode map reads has the OP, ARG and LVL it was read from. -/
theorem fields_of_decodeOp {op : BitVec 5} {arg : Half} {lvl : Bool} {i : Instr}
    (h : decodeOp op arg lvl = .instr i) : i.opcode = op ∧ i.arg = arg ∧ i.lvl = lvl := by
  unfold decodeOp at h
  split at h <;> cases h
  all_goals exact ⟨BitVec.eq_of_toNat_eq (Eq.symm ‹_›), rfl, rfl⟩

/-- OP is one that the opcode map leaves unassigned (30_encoding.md R123). -/
def unassigned (op : BitVec 5) : Prop :=
  (0x0D ≤ op.toNat ∧ op.toNat ≤ 0x0F) ∨ (0x13 ≤ op.toNat ∧ op.toNat ≤ 0x17) ∨ 0x1A ≤ op.toNat

/-- The opcode map rejects the unassigned OPs and no other. -/
theorem decodeOp_reject_iff (op : BitVec 5) (arg : Half) (lvl : Bool) :
    (∃ r, decodeOp op arg lvl = .reject r) ↔ unassigned op := by
  have hlt : op.toNat < 32 := op.isLt
  unfold decodeOp unassigned
  split
  case h_19 =>
    simp only [imp_false] at *
    exact iff_of_true ⟨_, rfl⟩ (by omega)
  all_goals exact iff_of_false (fun ⟨_, h⟩ => by cases h) (by omega)

/-! ## The reserved bits -/

/-- With its reserved bits 0, a word is read by its OP alone. -/
theorem decode_of_reserved_zero {w : Word} (hlow : w.extractLsb' 5 3 = 0#3) (hhigh : w.extractLsb' 9 7 = 0#7) :
    decode w = decodeOp (opField w) (argField w) (lvlField w) := by
  simp [decode, hlow, hhigh]

/-- A word is rejected for a reserved bit, or by the opcode map. -/
theorem decode_reject_iff (w : Word) :
    (∃ r, decode w = .reject r) ↔
      w.extractLsb' 5 3 ≠ 0#3 ∨ w.extractLsb' 9 7 ≠ 0#7 ∨ unassigned (opField w) := by
  by_cases hlow : w.extractLsb' 5 3 = 0#3
  · by_cases hhigh : w.extractLsb' 9 7 = 0#7
    · rw [decode_of_reserved_zero hlow hhigh, decodeOp_reject_iff]
      simp [hlow, hhigh]
    · simp [decode, hlow, hhigh]
  · simp [decode, hlow]

/-- A word that decodes has its reserved bits 0. -/
theorem reserved_zero_of_decode {w : Word} {i : Instr} (h : decode w = .instr i) :
    w.extractLsb' 5 3 = 0#3 ∧ w.extractLsb' 9 7 = 0#7 := by
  have hnot : ¬ ∃ r, decode w = .reject r := by simp [h]
  rw [decode_reject_iff, not_or, not_or, not_not, not_not] at hnot
  obtain ⟨hlow, hhigh, -⟩ := hnot
  exact ⟨hlow, hhigh⟩

/-! ## Words and their fields -/

/-- A word is its fields and reserved bits side by side (30_encoding.md R120). -/
theorem fields_append (w : Word) :
    argField w ++ w.extractLsb' 9 7 ++ BitVec.ofBool (lvlField w) ++ w.extractLsb' 5 3 ++ opField w = w := by
  have hlvl : BitVec.ofBool (lvlField w) = w.extractLsb' 8 1 := by
    refine BitVec.eq_of_getLsbD_eq fun i hi => ?_
    obtain rfl : i = 0 := by omega
    simp [lvlField]
  simp only [opField, argField, hlvl, BitVec.extractLsb'_append_extractLsb'_eq_extractLsb']
  exact BitVec.extractLsb'_eq_self

/-- A word beside another counts in units of the other's range. -/
theorem toNat_append_eq_add {m n : Nat} (x : BitVec m) (y : BitVec n) :
    (x ++ y).toNat = x.toNat * 2 ^ n + y.toNat := by
  rw [BitVec.toNat_append, ← Nat.shiftLeft_add_eq_or_of_lt y.isLt, Nat.shiftLeft_eq]

/-! ## The encoding obligations -/

/-- Settles O1: the decoder finds the reserved bits 0 and each field where the encoder put it. -/
theorem decodeOfEncode : Obligations.DecodeOfEncode := by
  unfold Obligations.DecodeOfEncode
  intro i
  rw [decode_of_reserved_zero (Laws.reservedLow_encode i) (Laws.reservedHigh_encode i), Laws.opField_encode,
    Laws.argField_encode, Laws.lvlField_encode, decodeOp_opcode]

/-- Settles O2: the word and the encoding have the same fields, and both have the reserved bits 0. -/
theorem encodeOfDecode : Obligations.EncodeOfDecode := by
  unfold Obligations.EncodeOfDecode
  intro w i h
  obtain ⟨hlow, hhigh⟩ := reserved_zero_of_decode h
  rw [decode_of_reserved_zero hlow hhigh] at h
  obtain ⟨hop, harg, hlvl⟩ := fields_of_decodeOp h
  rw [encode, hop, harg, hlvl, ← hlow, ← hhigh, fields_append]

/-- Settles O3: the fields side by side, each counted in units of the bits below it. -/
theorem encodeIsAssemblerFormula : Obligations.EncodeIsAssemblerFormula := by
  unfold Obligations.EncodeIsAssemblerFormula
  intro i
  simp only [encode, toNat_append_eq_add, BitVec.toNat_ofBool, BitVec.toNat_ofNat]
  omega

/-- Settles O4: the decoder's reserved-bit tests and the gaps of the opcode map. -/
theorem rejectedWordsAreTheReservedOnes : Obligations.RejectedWordsAreTheReservedOnes := by
  unfold Obligations.RejectedWordsAreTheReservedOnes
  exact decode_reject_iff

/-- Settles O5: each word decoded. -/
theorem specWordsDecode : Obligations.SpecWordsDecode := by
  unfold Obligations.SpecWordsDecode
  decide

end Sys2Proof
end

section
/-! SUPPORT. A host write to CMD (30_encoding.md R124, R125): the check's first failing test, what submission makes of an
idle block, and the step that takes the write from the schedule. -/

namespace Sys2Proof.Machine

/-! ## The check, test by test -/

/-- READ_BYTE is the one operation that needs DATA released (30_encoding.md R125 item 4). -/
theorem needsRelease_iff (i : Instr) : needsRelease i = true ↔ i.opcode = 0x02#5 := by
  cases i <;> simp [needsRelease, Instr.opcode]

theorem Block.check_of_role {b : Block} {i : Instr} (hrole : i.roleOk b.cfg.role = false) : b.check i = .errRole := by
  simp [Block.check, roleAccepts_eq_roleOk, hrole]

theorem Block.check_of_arg {b : Block} {i : Instr} (hrole : i.roleOk b.cfg.role = true)
    (harg : i.argOk b.cfg = false) : b.check i = .errArg := by
  simp [Block.check, roleAccepts_eq_roleOk, argInRange_eq_argOk, hrole, harg]

theorem Block.check_of_dir {b : Block} {i : Instr} (hwf : i.wf b.cfg = true) (hop : i.opcode = 0x02#5)
    (hoe : b.out.dataOe = true) : b.check i = .errDir := by
  obtain ⟨hrole, harg⟩ : i.roleOk b.cfg.role = true ∧ i.argOk b.cfg = true := by simpa [Instr.wf] using hwf
  simp [Block.check, roleAccepts_eq_roleOk, argInRange_eq_argOk, hrole, harg, (needsRelease_iff i).mpr hop, hoe]

theorem Block.check_of_ok {b : Block} {i : Instr} (hwf : i.wf b.cfg = true)
    (hdir : ¬ (i.opcode = 0x02#5 ∧ b.out.dataOe = true)) : b.check i = .ok :=
  (b.check_ok_iff i).mpr ⟨hwf, by rwa [needsRelease_iff]⟩

/-! ## Submission to an idle block -/

theorem Block.submit_of_refused {b : Block} {i : Instr} (prog : List Line) (hb : b.busy = false)
    (hc : b.check i ≠ .ok) : b.submit i prog = b.refuse i.opcode (b.check i) := by
  rcases b.submit_cases i prog with ⟨hbusy, -⟩ | ⟨-, -, h⟩ | ⟨-, hok, -⟩
  · simp [hb] at hbusy
  · exact h
  · exact absurd hok hc

theorem Block.submit_of_ok {b : Block} {i : Instr} (prog : List Line) (hb : b.busy = false) (hc : b.check i = .ok) :
    b.submit i prog = b.accept i prog := by
  simp [Block.submit, hb, hc]

theorem Block.submitWord_of_instr {w : Word} {i : Instr} (b : Block) (h : decode w = .instr i) :
    b.submitWord w = b.submit i (programOf b.cfg i) := by
  simp only [Block.submitWord, h]

theorem Block.submitWord_of_reject {b : Block} {w : Word} {r : Reject} (hb : b.busy = false)
    (h : decode w = .reject r) : b.submitWord w = b.refuse (opField w) .errOp := by
  simp [Block.submitWord, h, hb]

/-- A host write to CMD is the submission of its word. -/
theorem Block.access_write_cmd {b : Block} (w : Word) (hr : b.rstN = true) :
    b.access (.write 0x00C#12 4 w) = b.submitWord w :=
  Block.access_write_register w hr (by decide)

/-- A refused command's code is the check's, and the block stays idle. -/
theorem Block.submit_of_check {b : Block} {i : Instr} {c : ResultCode} (prog : List Line) (hb : b.busy = false)
    (hc : b.check i = c) (hne : c ≠ .ok) :
    (b.submit i prog).regs.result.code = c ∧ (b.submit i prog).busy = false := by
  subst hc
  rw [Block.submit_of_refused prog hb hne]
  exact ⟨rfl, hb⟩

/-- Settles O21: the code is that of the check, whose tests come in R125's order. -/
theorem checkReportsFirstFailure : Obligations.CheckReportsFirstFailure := by
  unfold Obligations.CheckReportsFirstFailure
  intro b w hr hb
  rw [Block.access_write_cmd w hr]
  refine ⟨fun r hdec => ?_, fun i hdec => ?_⟩
  · rw [Block.submitWord_of_reject hb hdec]
    exact ⟨rfl, hb⟩
  · rw [b.submitWord_of_instr hdec]
    refine ⟨fun hrole => Block.submit_of_check _ hb (Block.check_of_role hrole) (by decide),
      fun hrole harg => Block.submit_of_check _ hb (Block.check_of_arg hrole harg) (by decide),
      fun hwf hop hoe => Block.submit_of_check _ hb (Block.check_of_dir hwf hop hoe) (by decide), fun hwf hdir => ?_⟩
    rw [Block.submit_of_ok _ hb (Block.check_of_ok hwf hdir)]
    exact ⟨rfl, rfl⟩

/-! ## Acceptance with no clock scheduled -/

/-- An accepted operation runs from the accepting block over the schedule. -/
theorem exec_of_readyFor {s : State} {i : Instr} {b : Block} (h : s.readyFor i b) :
    exec i s = .next (State.runWhile s.port s.env (s.set s.port (b.accept i (programOf b.cfg i))).note) := by
  obtain ⟨⟨hget, hr, hb⟩, hcheck⟩ := h
  simp [exec_eq_operate, State.operate, hget, hr, hb, Block.submit_of_ok _ hb hcheck]

/-- Acceptance clears DONE and ERR and keeps the other events (30_encoding.md R124). -/
theorem Block.accept_regs (b : Block) (i : Instr) (prog : List Line) :
    (b.accept i prog).regs = { b.regs with
      result := ⟨.none, false, false, 0#16⟩
      events := b.regs.events &&& 0x1C#5
      statusOp := i.opcode } := rfl

/-- Settles O23: with an empty schedule the run is the acceptance alone. -/
theorem acceptedCommandIsLatched : Obligations.AcceptedCommandIsLatched := by
  unfold Obligations.AcceptedCommandIsLatched
  intro i s b h henv
  obtain ⟨⟨hget, -, -⟩, -⟩ := id h
  refine ⟨_, b.accept i (programOf b.cfg i), exec_of_readyFor h, ?_, ?_, rfl, Block.goto_prog _ _, rfl, rfl, rfl, rfl,
    rfl, b.accept_regs i _, rfl, rfl, rfl, rfl, rfl, rfl, rfl⟩
  · rw [henv, State.runWhile_nil, State.get_withEnv, State.note_get, State.get_set_same _ hget]
  · rw [henv, State.runWhile_nil, State.get_withEnv, State.note_get, State.get_set_other]

/-! ## The step that takes a CMD write -/

/-- The event of a CMD write submits what its word decodes to. -/
theorem Event.instr?_cmdWrite {w : Word} {i : Instr} (side : Side) (h : decode w = .instr i) :
    (Event.host side (.write 0x00C#12 4 w)).instr? = some i := by
  simp [Event.instr?, Event.cmdWord?, h]

/-- A CMD write is answered OKAY, in reset or out of it. -/
theorem Event.replies_cmdWrite (b : Block) (side : Side) (w : Word) :
    (Event.host side (.write 0x00C#12 4 w)).replies b = [⟨side, 0#32, true⟩] := by
  simp [Event.replies, Block.reply, Block.hostOk, accessOk_register]

/-- Settles O6: the event submits i, and the machine notes its port and answers it. -/
theorem stepRunsSubmittedCommand : Obligations.StepRunsSubmittedCommand := by
  unfold Obligations.StepRunsSubmittedCommand
  intro s side w es b i henv hget hdec
  simp only [step, henv, Event.side, hget, Event.instr?_cmdWrite side hdec, State.atPort, Event.replies_cmdWrite]

/-! ## A fetched word -/

theorem State.get_eq_of_blocks {s t : State} (hnear : t.near = s.near) (hfar : t.far = s.far) (side : Side) :
    t.get side = s.get side := by
  cases side with
  | near => exact congrArg some hnear
  | far => exact hfar

/-- A word is submitted at a port whose block is there. -/
theorem State.isSome_get_portFor (s : State) (w : Word) : (s.get (s.portFor w)).isSome = true := by
  unfold State.portFor
  split
  · next f _ hfar =>
    split
    · simp [hfar]
    · rfl
  · rfl
  · rfl

/-- A table word that stands for an operation decodes to it. -/
theorem decode_of_decodeTableWord {nbits w : Nat} {i : Instr} (h : decodeTableWord nbits w = some i) :
    decode (BitVec.ofNat 32 (w % 2 ^ nbits)) = .instr i := by
  unfold decodeTableWord at h
  split at h
  · next hdec => rw [hdec, Option.some.inj h]
  · cases h

/-- Settles O8: the placed word is the schedule's next event, at a port whose block is there. -/
theorem fetchedWordRunsNext : Obligations.FetchedWordRunsNext := by
  unfold Obligations.FetchedWordRunsNext
  intro s nbits w i h
  have hthere := s.isSome_get_portFor (BitVec.ofNat 32 (w % 2 ^ nbits))
  obtain ⟨b, hb⟩ := Option.isSome_iff_exists.mp hthere
  refine ⟨_, stepRunsSubmittedCommand (s.withFetchWord nbits w) _ _ _ b i rfl
    ((State.get_eq_of_blocks rfl rfl _).trans hb) (decode_of_decodeTableWord h), rfl, rfl, rfl, ?_⟩
  exact (congrArg Option.isSome (State.get_eq_of_blocks rfl rfl _)).trans hthere

end Sys2Proof.Machine
end

section
/-! SUPPORT. The responder's edge engine (40_transport.md R174): what an edge makes of the transport, the byte that eight
rising edges leave, and a clk cycle of a responder that only follows the clock. -/

namespace Sys2Proof.Machine

/-! ## A byte shifted in bit by bit -/

/-- The last k bits shifted into SH are `bit 0` to `bit (k - 1)`, the first of them lowest (20_memory.md R99). -/
def ShiftedIn (bit : Nat → Level) (k : Nat) (sh : Byte) : Prop := ∀ j < k, sh.getLsbD (8 - k + j) = bit j

/-- A shift moves every bit down by one and takes the new one in at bit 7. -/
theorem getLsbD_shiftIn (d : Level) (sh : Byte) {j : Nat} (hj : j < 8) :
    (shiftIn d sh).getLsbD j = if j = 7 then d else sh.getLsbD (j + 1) := by
  rw [shiftIn, BitVec.getLsbD_append]
  by_cases h : j = 7
  · simp [h]
  · simp [h, show j < 7 by omega, Nat.add_comm]

theorem ShiftedIn.zero (bit : Nat → Level) (sh : Byte) : ShiftedIn bit 0 sh := fun j hj => absurd hj (Nat.not_lt_zero j)

theorem ShiftedIn.shiftIn {bit : Nat → Level} {k : Nat} {sh : Byte} (h : ShiftedIn bit k sh) (hk : k < 8) :
    ShiftedIn bit (k + 1) (Machine.shiftIn (bit k) sh) := by
  intro j hj
  rw [getLsbD_shiftIn _ _ (by omega)]
  split
  · rw [show j = k by omega]
  · rw [← h j (by omega), show 8 - (k + 1) + j + 1 = 8 - k + j by omega]

/-- After eight shifts SH is the byte. -/
theorem ShiftedIn.eq_of_eight {v sh : Byte} (h : ShiftedIn v.getLsbD 8 sh) : sh = v :=
  BitVec.eq_of_getLsbD_eq fun j hj => by simpa using h j hj

/-! ## An edge -/

/-- A rising edge: STRAY_CLK unless armed, a shift and a count; the eighth sets BYTE_DONE and disarms. -/
theorem Block.engineRise_eq (b : Block) : b.engineRise = { b with
    regs.events := if b.xp.armed then b.regs.events else b.regs.events ||| EventBit.strayClk.mask
    xp := ⟨shiftIn b.sync.bit b.xp.sh, b.xp.bitcnt + 1#3, b.xp.byteDone || decide (b.xp.bitcnt = 7#3),
      b.xp.armed && !decide (b.xp.bitcnt = 7#3), b.xp.hph⟩ } := by
  unfold Block.engineRise
  by_cases h7 : b.xp.bitcnt = 7#3 <;> cases ha : b.xp.armed <;> simp [h7, ha, Block.raise]

/-- An unarmed edge is stray. -/
theorem Block.event_strayClk_engineRise (b : Block) :
    b.engineRise.event .strayClk = (b.event .strayClk || !b.xp.armed) := by
  rw [Block.engineRise_eq]
  cases ha : b.xp.armed
  · exact b.event_raise .strayClk .strayClk
  · exact (Bool.or_false _).symm

/-- The transport of `b` after k < 8 rising edges from BITCNT = 0, at which `bit` was sampled. -/
structure Block.Shifted (b : Block) (bit : Nat → Level) (k : Nat) (x : Block) : Prop where
  sh : ShiftedIn bit k x.xp.sh
  bitcnt : x.xp.bitcnt = BitVec.ofNat 3 k
  byteDone : x.xp.byteDone = b.xp.byteDone
  armed : x.xp.armed = b.xp.armed
  hph : x.xp.hph = b.xp.hph
  stray : x.event .strayClk = (b.event .strayClk || (decide (0 < k) && !b.xp.armed))

theorem bitcnt_ne_seven {k : Nat} (hk : k < 7) : BitVec.ofNat 3 k ≠ 7#3 := fun h => by
  have := congrArg BitVec.toNat h
  simp at this
  omega

/-- An edge at which `v` is sampled. -/
theorem Block.event_strayClk_sampled (x : Block) (v : Level) :
    ({ x with sync.bit := v } : Block).engineRise.event .strayClk = (x.event .strayClk || !x.xp.armed) :=
  Block.event_strayClk_engineRise { x with sync.bit := v }

theorem Block.Shifted.engineRise {b x : Block} {bit : Nat → Level} {k : Nat} (h : b.Shifted bit k x) (hk : k < 7) :
    b.Shifted bit (k + 1) ({ x with sync.bit := bit k } : Block).engineRise := by
  obtain ⟨hsh, hcnt, hdone, harmed, hhph, hstray⟩ := h
  have hstray' := x.event_strayClk_sampled (bit k)
  have hnot7 := bitcnt_ne_seven hk
  rw [Block.engineRise_eq] at hstray' ⊢
  refine ⟨hsh.shiftIn (by omega), ?_, ?_, ?_, hhph, hstray'.trans ?_⟩
  · simp [hcnt, BitVec.ofNat_add]
  · simp [hcnt, hnot7, hdone]
  · simp [hcnt, hnot7, harmed]
  · rw [hstray, harmed]
    cases b.event .strayClk <;> cases b.xp.armed <;> simp

/-- Settles O36: seven edges shift and count, and the eighth completes the byte. -/
theorem responderShiftsLsbFirst : Obligations.ResponderShiftsLsbFirst := by
  unfold Obligations.ResponderShiftsLsbFirst
  intro b v h0 edge
  have hseven (k : Nat) (hk : k ≤ 7) : b.Shifted v.getLsbD k ((List.range k).foldl edge b) := by
    induction k with
    | zero => exact ⟨.zero _ _, h0, rfl, rfl, rfl, by simp⟩
    | succ k ih =>
      rw [List.range_succ, List.foldl_append]
      exact (ih (by omega)).engineRise (by omega)
  obtain ⟨hsh, hcnt, hdone, harmed, hhph, hstray⟩ := hseven 7 le_rfl
  rw [List.range_succ, List.foldl_append]
  generalize (List.range 7).foldl edge b = x at *
  have hbyte : shiftIn (v.getLsbD 7) x.xp.sh = v := (hsh.shiftIn (by decide)).eq_of_eight
  refine ⟨?_, (x.event_strayClk_sampled (v.getLsbD 7)).trans ?_⟩
  · simpa [edge, Block.engineRise_eq, hcnt, hhph] using hbyte
  · rw [hstray, harmed]
    cases b.event .strayClk <;> cases b.xp.armed <;> rfl

/-! ## A clk cycle of a responder that follows the clock -/

/-- The synchronisers of a responder after the start of a clk cycle. -/
def Sync.shifted (y : Sync) (p : Pins) (slip : Option Level) : Sync where
  hs := shiftChain p.hs y.hs
  data := shiftChain p.data y.data
  sck := shiftChain p.sck y.sck
  hsPrev := y.hsPrev
  sckPrev := lastStage (shiftChain p.sck y.sck)
  bit := slip.getD (lastStage (shiftChain p.data y.data))

section
variable {b : Block} {p : Pins} {slip : Option Level}

/-- The start of a clk cycle in which CLK falls. -/
theorem Block.begun_of_fall (hrole : b.cfg.role = .responder) (hprev : b.sync.sckPrev = true)
    (hnow : lastStage (shiftChain p.sck b.sync.sck) = false) :
    b.begun p slip = (b.withSync (b.sync.shifted p slip)).engineFall := by
  cases hoe : b.out.dataOe <;>
    simp [Block.begun, Block.edgeEngine, Block.sckSample, Block.syncShift, hrole, hprev, hnow, Block.engineFall,
      Block.withSync, Sync.shifted, Block.driveData, hoe]

/-- The start of a clk cycle in which CLK rises. -/
theorem Block.begun_of_rise (hrole : b.cfg.role = .responder) (hprev : b.sync.sckPrev = false)
    (hnow : lastStage (shiftChain p.sck b.sync.sck) = true) :
    b.begun p slip = (b.withSync (b.sync.shifted p slip)).engineRise := by
  simp [Block.begun, Block.edgeEngine, Block.sckSample, Block.syncShift, hrole, hprev, hnow, Block.engineRise_eq,
    Block.withSync, Sync.shifted]

/-- The start of a clk cycle with no edge. -/
theorem Block.begun_of_no_edge (hrole : b.cfg.role = .responder)
    (hnow : b.sync.sckPrev = lastStage (shiftChain p.sck b.sync.sck)) :
    b.begun p slip = b.withSync (b.sync.shifted p slip) := by
  simp [Block.begun, Block.edgeEngine, Block.sckSample, Block.syncShift, hrole, hnow, Block.withSync, Sync.shifted]

end

/-- The sequencer has nothing to do but wait for a byte, if it runs at all. -/
def Block.resting (b : Block) : Prop :=
  b.busy = false ∨ (b.xp.byteDone = false ∧ ∃ rest, b.seq.prog = .run (.awaitByte :: rest))

theorem Block.seqStep_of_resting {b : Block} (hm : b.seq.mid = false) (h : b.resting) : b.seqStep = b := by
  obtain h | ⟨hdone, rest, hp⟩ := h
  · cases hp : b.seq.prog with
    | idle => rw [Block.seqStep, Block.lineStep_idle hp, Block.goesOn, hp, ← hm]
    | run ls => simp [Block.busy, hp] at h
  · rw [Block.seqStep, Block.lineStep_cons hp, Block.goesOn, hp]
    simp only [Block.runLine, Block.flows, hdone, Bool.false_eq_true, if_false]
    rw [← hm]

/-- The sequencer takes the byte it waits for, and its clk cycle goes on (60_exceptions.md R347). -/
theorem Block.seqStep_of_byte {b : Block} {rest : List Line} (hdone : b.xp.byteDone = true)
    (hp : b.seq.prog = .run (.awaitByte :: rest)) : b.seqStep = { b.goto rest with seq.mid := true } := by
  rw [Block.seqStep, Block.lineStep_cons hp, Block.goesOn, hp]
  simp [Block.runLine, Block.flows, hdone]

section
variable {b : Block} {p : Pins} {slip : Option Level}

/-- A clk cycle that leaves the sequencer resting is its start alone. -/
theorem Block.clkStep_of_resting (hr : b.rstN = true) (hm : b.seq.mid = false) (h : (b.begun p slip).resting) :
    b.clkStep p slip = (b.begun p slip).latchPrev := by
  have hmid : (b.begun p slip).seq.mid = false := by rw [(b.begun_keeps p slip).2.1, hm]
  rw [Block.clkStep_begins p slip hr hm, ← Block.begun, Block.seqStep_of_resting hmid h]

/-- A falling edge puts SH[0] on data_o if the block owns DATA (40_transport.md R174). -/
theorem Block.clkStep_of_fall (hrole : b.cfg.role = .responder) (hr : b.rstN = true) (hm : b.seq.mid = false)
    (h : b.resting) (hprev : b.sync.sckPrev = true) (hnow : lastStage (shiftChain p.sck b.sync.sck) = false) :
    b.clkStep p slip = { b with
      out.dataO := if b.out.dataOe then b.xp.sh.getLsbD 0 else b.out.dataO
      sync := ((b.withSync (b.sync.shifted p slip)).latchPrev).sync } := by
  have hfall := Block.begun_of_fall (slip := slip) hrole hprev hnow
  have hrest : (b.begun p slip).resting := by
    rw [hfall]; unfold Block.engineFall; split <;> exact h
  rw [Block.clkStep_of_resting hr hm hrest, hfall]
  unfold Block.engineFall
  cases hoe : b.out.dataOe
  · rw [if_neg (by simp [Block.withSync, hoe]), if_neg (by simp)]; rfl
  · rw [if_pos (by exact hoe), if_pos rfl]; rfl

/-- No edge: nothing moves but the synchronisers. -/
theorem Block.clkStep_of_no_edge (hrole : b.cfg.role = .responder) (hr : b.rstN = true) (hm : b.seq.mid = false)
    (h : b.resting) (hnow : b.sync.sckPrev = lastStage (shiftChain p.sck b.sync.sck)) :
    b.clkStep p slip = (b.withSync (b.sync.shifted p slip)).latchPrev := by
  have hnone := Block.begun_of_no_edge (slip := slip) hrole hnow
  rw [Block.clkStep_of_resting hr hm (by rw [hnone]; exact h), hnone]

/-- A rising edge that is not the eighth only moves the transport. -/
theorem Block.clkStep_of_rise (hrole : b.cfg.role = .responder) (hr : b.rstN = true) (hm : b.seq.mid = false)
    (h : b.resting) (hprev : b.sync.sckPrev = false) (hnow : lastStage (shiftChain p.sck b.sync.sck) = true)
    (hidle : b.busy = false ∨ b.xp.bitcnt ≠ 7#3) :
    b.clkStep p slip = (b.withSync (b.sync.shifted p slip)).engineRise.latchPrev := by
  have hrise := Block.begun_of_rise (slip := slip) hrole hprev hnow
  have hrest : (b.begun p slip).resting := by
    rw [hrise, Block.engineRise_eq]
    obtain hb | ⟨hdone, hp⟩ := h
    · exact .inl hb
    · obtain hb | h7 := hidle
      · exact .inl hb
      · exact .inr ⟨by simp [Block.withSync, hdone, h7], hp⟩
  rw [Block.clkStep_of_resting hr hm hrest, hrise]

/-- The eighth rising edge completes the awaited byte, and the clk cycle goes on after the await. -/
theorem Block.clkStep_of_eighth (hrole : b.cfg.role = .responder) (hr : b.rstN = true) (hm : b.seq.mid = false)
    (hprev : b.sync.sckPrev = false) (hnow : lastStage (shiftChain p.sck b.sync.sck) = true)
    (h7 : b.xp.bitcnt = 7#3) {rest : List Line} (hp : b.seq.prog = .run (.awaitByte :: rest)) :
    b.clkStep p slip = { (b.withSync (b.sync.shifted p slip)).engineRise.latchPrev with
      seq.prog := .run (b.dropZero rest)
      seq.mid := true } := by
  have hrise := Block.begun_of_rise (slip := slip) hrole hprev hnow
  have hdone : (b.begun p slip).xp.byteDone = true := by
    rw [hrise, Block.engineRise_eq]; simp [Block.withSync, h7]
  obtain ⟨hst, hseq, -, -⟩ := b.begun_keeps p slip
  rw [Block.clkStep_begins p slip hr hm, ← Block.begun, Block.seqStep_of_byte hdone (by rw [hseq, hp]),
    ← Block.dropZero_of_standing hst, hrise]
  rfl

end

/-- The two mid-cycle steps that end an AwaitByte whose byte is used. -/
theorem Block.clkStep_takeDone {b : Block} {used : Bool} {rest : List Line} (hr : b.rstN = true)
    (hm : b.seq.mid = true) (hp : b.seq.prog = .run (.takeDone used :: rest)) (p : Pins) :
    b.clkStep p = { b with
      xp.byteDone := false
      seq.prog := .run (b.dropZero rest)
      seq.mid := used } := by
  rw [Block.clkStep_mid p none hr hm, show b.redraw none = b from rfl, Block.seqStep, Block.lineStep_cons hp,
    Block.goesOn, hp]
  exact congrArg (fun ls => ({ b with xp.byteDone := false, seq.prog := .run ls, seq.mid := used } : Block))
    (Block.dropZero_congr (fun d => by cases d <;> rfl) rest)

theorem Block.clkStep_takeSh_mid {b : Block} {rest : List Line} (hr : b.rstN = true)
    (hm : b.seq.mid = true) (hp : b.seq.prog = .run (.takeSh :: rest)) (p : Pins) :
    b.clkStep p = { b with
      seq.prog := .run (b.dropZero rest)
      seq.locs.b := b.xp.sh
      seq.mid := false } := by
  rw [Block.clkStep_mid p none hr hm, show b.redraw none = b from rfl, Block.seqStep, Block.lineStep_cons hp,
    Block.goesOn, hp]
  exact congrArg (fun ls => ({ b with seq.prog := .run ls, seq.locs.b := b.xp.sh, seq.mid := false } : Block))
    (Block.dropZero_congr (fun d => by cases d <;> rfl) rest)

/-- Both of them, where the byte is used. -/
theorem Block.clkStep_takeDone_takeSh {b : Block} {rest : List Line} (hr : b.rstN = true) (hm : b.seq.mid = true)
    (hp : b.seq.prog = .run (.takeDone true :: .takeSh :: rest)) (p1 p2 : Pins) :
    (b.clkStep p1).clkStep p2 = { b with
      xp.byteDone := false
      seq.prog := .run (b.dropZero rest)
      seq.locs.b := b.xp.sh
      seq.mid := false } := by
  have hdone := Block.clkStep_takeDone hr hm hp p1
  have hsh := Block.clkStep_takeSh_mid (b := b.clkStep p1) (rest := rest) (by rw [hdone]; exact hr) (by rw [hdone])
    (by rw [hdone]; rfl) p2
  rw [hsh, hdone]
  exact congrArg (fun ls => ({ b with
    xp.byteDone := false, seq.prog := .run ls, seq.locs.b := b.xp.sh, seq.mid := false } : Block))
    (Block.dropZero_congr (fun d => by cases d <;> rfl) rest)

/-- What a rising edge makes of the registers, field by field. -/
theorem Block.engineRise_fields (b : Block) (y : Sync) : let x := (b.withSync y).engineRise
    x.out = b.out ∧ x.xp.sh.getLsbD 7 = y.bit ∧ (∀ k, k < 7 → x.xp.sh.getLsbD k = b.xp.sh.getLsbD (k + 1)) ∧
      x.regs = (if b.xp.armed then b.regs else { b.regs with events := b.regs.events ||| 0x08#5 }) ∧
      (b.xp.bitcnt ≠ 7#3 → x.xp.bitcnt = b.xp.bitcnt + 1#3 ∧ x.xp.byteDone = b.xp.byteDone ∧
        x.xp.armed = b.xp.armed) ∧
      (b.xp.bitcnt = 7#3 → x.xp.bitcnt = 0#3 ∧ x.xp.armed = false ∧ x.xp.byteDone = true) := by
  rw [Block.engineRise_eq]
  refine ⟨rfl, getLsbD_shiftIn _ _ (by decide), fun k hk => ?_, ?_, fun h7 => ?_, fun h7 => ?_⟩
  · exact (getLsbD_shiftIn _ _ (by omega)).trans (if_neg (by omega))
  · cases ha : b.xp.armed <;> simp [Block.withSync, ha, EventBit.mask, EventBit.index]
  · simp [Block.withSync, h7]
  · simp [Block.withSync, h7]

/-- The steps that the eighth edge leaves to come in its cycle (60_exceptions.md R347). -/
theorem Block.clkStep_after_eighth {b : Block} {p : Pins} {slip : Option Level} (hrole : b.cfg.role = .responder)
    (hr : b.rstN = true) (hm : b.seq.mid = false) (hprev : b.sync.sckPrev = false)
    (hnow : lastStage (shiftChain p.sck b.sync.sck) = true) (h7 : b.xp.bitcnt = 7#3) :
    let b' := b.clkStep p slip
    (∀ rest, b.seq.prog = .run (awaitByteLines ++ rest) → ∀ p1 p2 : Pins,
      (b'.clkStep p1).clkStep p2 = { b' with
        xp.byteDone := false
        seq.prog := .run (b.dropZero rest)
        seq.locs.b := b'.xp.sh
        seq.mid := false }) ∧
    (∀ rest, b.seq.prog = .run (awaitDoneLines ++ rest) → ∀ p1 : Pins,
      b'.clkStep p1 = { b' with
        xp.byteDone := false
        seq.prog := .run (b.dropZero rest)
        seq.mid := false }) := by
  have heighth {rest : List Line} (hp : b.seq.prog = .run (.awaitByte :: rest)) :=
    Block.clkStep_of_eighth (slip := slip) hrole hr hm hprev hnow h7 hp
  have hdrop {rest : List Line} (hp : b.seq.prog = .run (.awaitByte :: rest)) (ls : List Line) :
      (b.clkStep p slip).dropZero ls = b.dropZero ls :=
    Block.dropZero_congr (fun d => by rw [heighth hp, Block.engineRise_eq]; cases d <;> rfl) ls
  have hr' : (b.clkStep p slip).rstN = true := (congrArg (·.2.1) (Block.settings_clkStep p slip hr)).trans hr
  refine ⟨fun rest hp p1 p2 => ?_, fun rest hp p1 => ?_⟩
  · rw [Block.clkStep_takeDone_takeSh (rest := rest) hr' (by rw [heighth hp]) (by rw [heighth hp]; rfl), hdrop hp]
  · rw [Block.clkStep_takeDone (used := false) (rest := rest) hr' (by rw [heighth hp]) (by rw [heighth hp]; rfl),
      hdrop hp]

/-- Settles O37: the four kinds of cycle, and the steps that the eighth edge leaves to come in its cycle. -/
theorem responderFollowsTheClock : Obligations.ResponderFollowsTheClock := by
  unfold Obligations.ResponderFollowsTheClock
  intro b p slip hrole hr hm hwait
  have hrest : b.resting := by
    obtain hb | ⟨hdone, ls, hp | hp⟩ := hwait
    · exact .inl hb
    · exact .inr ⟨hdone, _, hp⟩
    · exact .inr ⟨hdone, _, hp⟩
  by_cases hedge : b.sync.sckPrev = lastStage (shiftChain p.sck b.sync.sck)
  · rw [Block.clkStep_of_no_edge hrole hr hm hrest hedge]
    refine ⟨rfl, rfl, rfl, fun h1 h2 => ?_, fun h1 h2 => ?_, fun _ => ⟨rfl, rfl, rfl, rfl⟩⟩
    · exact absurd (h1.symm.trans (hedge.trans h2)) (by decide)
    · exact absurd (h1.symm.trans (hedge.trans h2)) (by decide)
  cases hprev : b.sync.sckPrev with
  | true =>
    have hnow : lastStage (shiftChain p.sck b.sync.sck) = false := by simpa [hprev] using hedge
    rw [Block.clkStep_of_fall hrole hr hm hrest hprev hnow]
    refine ⟨rfl, rfl, rfl, fun _ _ => ⟨rfl, rfl, rfl, ?_⟩, fun h1 => (by cases h1), fun h1 => ?_⟩
    · split <;> rfl
    · exact absurd (hprev.trans h1) hedge
  | false =>
    have hnow : lastStage (shiftChain p.sck b.sync.sck) = true := by simpa [hprev] using hedge
    obtain ⟨hout, hnew, hold, hregs, hmore, hlast⟩ := b.engineRise_fields (b.sync.shifted p slip)
    have hsync : (b.withSync (b.sync.shifted p slip)).engineRise.sync = b.sync.shifted p slip ∧
        (b.withSync (b.sync.shifted p slip)).engineRise.buf = b.buf ∧
        (b.withSync (b.sync.shifted p slip)).engineRise.seq = b.seq := by
      rw [Block.engineRise_eq]; exact ⟨rfl, rfl, rfl⟩
    obtain ⟨hsync, hbuf, hseq⟩ := hsync
    by_cases hidle : b.busy = false ∨ b.xp.bitcnt ≠ 7#3
    · rw [Block.clkStep_of_rise hrole hr hm hrest hprev hnow hidle]
      simp only [Block.latchPrev, hsync]
      refine ⟨rfl, hbuf, rfl, fun h1 => (by cases h1), fun _ _ => ⟨hout, hnew, hold, hregs, fun h7 => ?_, fun h7 => ?_⟩,
        fun h1 => absurd (hprev.trans h1) hedge⟩
      · obtain ⟨hcnt, hdone, harmed⟩ := hmore h7
        exact ⟨hcnt, hdone, harmed, hseq⟩
      · have hb : b.busy = false := hidle.resolve_right (not_not_intro h7)
        obtain ⟨hcnt, harmed, hdone⟩ := hlast h7
        refine ⟨hcnt, harmed, hdone, fun _ => hseq, fun rest hp => ?_, fun rest hp => ?_⟩
        · simp [Block.busy, hp] at hb
        · simp [Block.busy, hp] at hb
    · obtain ⟨hb, h7⟩ := not_or.mp hidle
      replace h7 := not_not.mp h7
      obtain ⟨-, rest, hp⟩ := hrest.resolve_left hb
      obtain ⟨hused, hunused⟩ := Block.clkStep_after_eighth (slip := slip) hrole hr hm hprev hnow h7
      obtain ⟨hcnt, harmed, hdone⟩ := hlast h7
      rw [Block.clkStep_of_eighth hrole hr hm hprev hnow h7 hp] at hused hunused ⊢
      simp only [Block.latchPrev, hsync] at hused hunused ⊢
      exact ⟨rfl, hbuf, rfl, fun h1 => (by cases h1), fun _ _ => ⟨hout, hnew, hold, hregs, fun h => absurd h7 h,
        fun _ => ⟨hcnt, harmed, hdone, fun h => absurd h hb, hused, hunused⟩⟩, fun h1 => absurd (hprev.trans h1) hedge⟩

end Sys2Proof.Machine
end

section
/-! SUPPORT. Frames: which parts of a block each line of pseudocode writes, said once as a table, and that an operation
leaves every other part alone over steps of the clock, on either role, alone or on a bus. -/

namespace Sys2Proof.Machine

/-! ## The parts of a block -/

/-- A part of a block that a frame speaks of. -/
inductive Part where
  /-- The frame buffer. -/
  | buf
  /-- What no line writes: the settings, STATUS.OP, CMD_IGNORED and WR_IGNORED, and on an initiator STRAY_CLK. -/
  | fixed
  | data
  | calcA
  | rxackA
  | calcB
  | rxackB
  | advlen
  | isMatch
  | isMatchB
  | count
  | hsO
  | dataOe
  | sckO
  /-- An initiator's transport state and data_o, which on a responder the edge engine moves too. -/
  | xport
  /-- The timers of a delay. -/
  | timers
  deriving DecidableEq

/-- What a part is made of. -/
abbrev Part.type : Part → Type
  | .buf => Memory × Epoch
  | .fixed => (Config × Level × BitVec 5 × Half × Half × Half × Half × Half) × BitVec 5 × Bool × Bool × Option Bool
  | .data | .calcA | .rxackA | .calcB | .rxackB => Byte
  | .advlen | .count => Half
  | .isMatch | .isMatchB | .hsO | .dataOe | .sckO => Bool
  | .xport => Option (Xport × Level)
  | .timers => Timers

/-- A value that only an initiator has. -/
def ofInitiator {α : Type} (r : Role) (v : α) : Option α :=
  match r with
  | .initiator => some v
  | .responder => none

/-- A part of a block as it is. -/
def Block.view (b : Block) : (f : Part) → f.type
  | .buf => (b.buf, b.bufEpoch)
  | .fixed => (b.settings, b.regs.statusOp, b.event .cmdIgnored, b.event .wrIgnored,
      ofInitiator b.cfg.role (b.event .strayClk))
  | .data => b.regs.data
  | .calcA => b.regs.cksum.calcA
  | .rxackA => b.regs.cksum.rxackA
  | .calcB => b.regs.cksum.calcB
  | .rxackB => b.regs.cksum.rxackB
  | .advlen => b.regs.advlen
  | .isMatch => b.regs.result.isMatch
  | .isMatchB => b.regs.result.isMatchB
  | .count => b.regs.result.count
  | .hsO => b.out.hsO
  | .dataOe => b.out.dataOe
  | .sckO => b.out.sckO
  | .xport => ofInitiator b.cfg.role (b.xp, b.out.dataO)
  | .timers => b.tmr

/-- The parts that a line writes. -/
def Line.writes : Line → List Part
  | .driveOe _ | .driveOeFinish _ => [.dataOe]
  | .driveHs _ | .driveHsFinish => [.hsO]
  | .delay _ => [.timers]
  | .loadSh _ | .armSh _ | .putBit | .takeBit _ | .shiftBit | .countBit | .hold | .clearDone | .driveBit0 _ | .arm
  | .takeDone _ | .xportClear => [.xport]
  | .sckLow | .sckHigh => [.sckO, .xport]
  | .xportLines => [.dataOe, .xport]
  | .xportSck => [.sckO]
  | .writeData => [.data]
  | .storeB _ => [.buf]
  | .setAdvlen => [.advlen]
  | .setCalc => [.calcA]
  | .setRxack => [.rxackA]
  | .cksumStageA => [.calcA, .rxackA]
  | .cksumStageB => [.calcB, .rxackB]
  | .matchB | .matchData | .matchStageA => [.isMatch]
  | .matchStageB => [.isMatchB]
  | .count _ | .countN | .countLen => [.count]
  | .awaitHs _ | .waitFinish _ | .takeSh | .awaitByte | .readData | .clearAcc _ | .addBuf _ _ | .addB | .setN | .setCap
  | .setLo | .setHi | .joinLen | .widenLen | .testOverrun | .showCompute | .finish _ | .finishMatchB
  | .finishMatchData => []

/-! ## What a step of the clock leaves alone -/

/-- finish writes RESULT.CODE, DONE, ERR and the position. -/
theorem Block.view_finish (b : Block) (c : ResultCode) (f : Part) : (b.finish c).view f = b.view f := by
  have hev (e : EventBit) (h1 : e ≠ .done) (h2 : e ≠ .err) : (b.finish c).event e = b.event e := by
    rw [Block.event, Block.finish_regs]
    cases c.isError <;> cases e <;> simp [Block.event, EventBit.mask, EventBit.index] at h1 h2 ⊢
  cases f with
  | fixed => simp [Block.view, hev]
  | _ => simp [Block.view]

theorem Block.view_goto (b : Block) (rest : List Line) (f : Part) : (b.goto rest).view f = b.view f := by
  cases f <;> rfl

/-- A delay's line changes the timers and the position. -/
theorem Block.delayCycle_eq (b : Block) (t : Half) (stay rest : List Line) :
    ∃ tmr prog, b.delayCycle t stay rest = { b with tmr := tmr, seq.prog := prog } := by
  unfold Block.delayCycle
  split
  · exact ⟨_, _, rfl⟩
  · split <;> exact ⟨_, _, rfl⟩

/-- A hold changes HPH and the position. -/
theorem Block.holdCycle_eq (b : Block) (stay rest : List Line) :
    ∃ hph prog, b.holdCycle stay rest = { b with xp.hph := hph, seq.prog := prog } := by
  unfold Block.holdCycle
  split <;> exact ⟨_, _, rfl⟩

/-- A line leaves alone what it does not write. -/
theorem Block.view_runLine (b : Block) {l : Line} (rest : List Line) {f : Part} (h : f ∉ l.writes) :
    (b.runLine l rest).view f = b.view f := by
  cases l with
  | driveOe _ => cases f with
    | dataOe => exact absurd (.head _) h
    | _ => rfl
  | driveHs _ => cases f with
    | hsO => exact absurd (.head _) h
    | _ => rfl
  | driveOeFinish v => cases f with
    | dataOe => exact absurd (.head _) h
    | _ => exact (b.driveOe v).view_finish .ok _
  | driveHsFinish => cases f with
    | hsO => exact absurd (.head _) h
    | _ => exact (b.driveHs b.seq.lvlv).view_finish .ok _
  | delay d =>
    obtain ⟨tmr, prog, he⟩ := b.delayCycle_eq (b.ticks d) (.delay d :: rest) rest
    rw [Block.runLine, he]
    cases f with
    | timers => exact absurd (.head _) h
    | _ => rfl
  | hold =>
    obtain ⟨hph, prog, he⟩ := b.holdCycle_eq (.hold :: rest) rest
    rw [Block.runLine, he]
    cases f with
    | xport => exact absurd (.head _) h
    | _ => rfl
  | loadSh v | armSh v => cases f with
    | xport => exact absurd (.head _) h
    | _ => cases v <;> rfl
  | putBit | takeBit _ | shiftBit | countBit | clearDone | driveBit0 _ | arm | takeDone _ | xportClear => cases f with
    | xport => exact absurd (.head _) h
    | _ => rfl
  | sckLow | sckHigh => cases f with
    | sckO => exact absurd (.head _) h
    | xport => exact absurd (.tail _ (.head _)) h
    | _ => rfl
  | xportLines => cases f with
    | dataOe => exact absurd (.head _) h
    | xport => exact absurd (.tail _ (.head _)) h
    | _ => rfl
  | xportSck =>
    rw [Block.runLine, Block.view_goto]
    cases f with
    | sckO => exact absurd (.head _) h
    | _ => split <;> rfl
  | writeData => cases f with
    | data => exact absurd (.head _) h
    | _ => rfl
  | storeB _ => cases f with
    | buf => exact absurd (.head _) h
    | _ => rfl
  | setAdvlen => cases f with
    | advlen => exact absurd (.head _) h
    | _ => rfl
  | setCalc => cases f with
    | calcA => exact absurd (.head _) h
    | _ => rfl
  | setRxack => cases f with
    | rxackA => exact absurd (.head _) h
    | _ => rfl
  | cksumStageA => cases f with
    | calcA => exact absurd (.head _) h
    | rxackA => exact absurd (.tail _ (.head _)) h
    | _ => rfl
  | cksumStageB => cases f with
    | calcB => exact absurd (.head _) h
    | rxackB => exact absurd (.tail _ (.head _)) h
    | _ => rfl
  | matchB | matchData | matchStageA => cases f with
    | isMatch => exact absurd (.head _) h
    | _ => rfl
  | matchStageB => cases f with
    | isMatchB => exact absurd (.head _) h
    | _ => rfl
  | count _ | countN | countLen => cases f with
    | count => exact absurd (.head _) h
    | _ => rfl
  | awaitHs _ | awaitByte => simp only [Block.runLine]; split <;> [exact b.view_goto rest f; rfl]
  | waitFinish _ => simp only [Block.runLine]; split <;> [exact b.view_finish .ok f; rfl]
  | testOverrun => simp only [Block.runLine]; split <;> exact b.view_goto _ f
  | takeSh | readData | clearAcc _ | addBuf _ _ | addB | setN | setCap | setLo | setHi | joinLen | widenLen | showCompute =>
    cases f <;> rfl
  | finish _ | finishMatchB | finishMatchData => exact b.view_finish _ f

/-- The start of a clk cycle leaves every part alone. -/
theorem Block.view_begun (b : Block) (p : Pins) (slip : Option Level) (f : Part) : (b.begun p slip).view f = b.view f := by
  cases hrole : b.cfg.role with
  | initiator => rw [Block.begun_of_initiator hrole]; cases f <;> rfl
  | responder =>
    obtain ⟨ev, x, d, q, hev, he⟩ := (b.syncShift p slip).edgeEngine_eq
    have hevent (e : EventBit) (h : e ≠ .strayClk) : ev.getLsbD e.index = b.event e := by
      obtain rfl | rfl := hev
      · rfl
      · exact (b.event_raise .strayClk e).trans (by simp [h.symm])
    rw [Block.begun, he]
    cases f with
    | fixed =>
      simp only [Block.view, ofInitiator, Block.syncShift, hrole]
      rw [← hevent .cmdIgnored (by decide), ← hevent .wrIgnored (by decide)]
      rfl
    | xport => simp [Block.view, ofInitiator, Block.syncShift, hrole]
    | _ => rfl

/-- A step of the clock leaves alone what its line does not write. -/
theorem Block.view_clkStep {b : Block} {f : Part} (p : Pins) (slip : Option Level) (hr : b.rstN = true)
    (h : ∀ l rest, b.seq.prog = .run (l :: rest) → f ∉ l.writes) : (b.clkStep p slip).view f = b.view f := by
  have hstep (x : Block) (hseq : x.seq = b.seq) : x.seqStep.view f = x.view f :=
    Block.seqStep_induct (P := fun y => y.view f = x.view f) rfl (fun hy => (Block.view_finish _ _ _).trans hy)
      (fun l rest hp hy => (Block.view_runLine _ rest (h l rest (hseq ▸ hp))).trans hy)
      (fun y m hy => by rw [← hy]; cases f <;> rfl)
  cases hm : b.seq.mid with
  | true =>
    rw [Block.clkStep_mid p slip hr hm, hstep (b.redraw slip) rfl]
    cases f <;> rfl
  | false =>
    rw [Block.clkStep_begins p slip hr hm, ← Block.begun, ← b.view_begun p slip f,
      ← hstep _ (b.begun_keeps p slip).2.1]
    cases f <;> rfl

/-! ## An operation over steps of the clock -/

/-- The block `x` comes of `b` by an operation of the lines `ls`: only lines of those are still to run, and the parts that
none of them writes are as they were. -/
structure Block.Framed (b : Block) (ls : List Line) (x : Block) : Prop where
  lines : ∀ l ∈ x.seq.prog.lines, l ∈ ls
  view : ∀ f, (∀ l ∈ ls, f ∉ l.writes) → x.view f = b.view f

/-- A sequencer step goes on among the lines to come, but for READ_RESP's test, which picks its ending. -/
theorem Block.lines_seqStep {b : Block} (h : Line.testOverrun ∉ b.seq.prog.lines) :
    ∀ l ∈ b.seqStep.seq.prog.lines, l ∈ b.seq.prog.lines := by
  intro l hl
  replace hl : l ∈ b.lineStep.seq.prog.lines := hl
  cases hp : b.seq.prog with
  | idle => rwa [Block.lineStep_idle hp, hp] at hl
  | run ls =>
    cases ls with
    | nil => rw [Block.lineStep_nil hp, Block.finish_seq] at hl; simp [Prog.lines] at hl
    | cons l0 rest =>
      rw [Block.lineStep_cons hp] at hl
      rw [hp] at h
      obtain hstay | ⟨b1, hgo⟩ | ⟨rfl, -⟩ | hend := b.runLine_prog l0 rest hp
      · rwa [hstay] at hl
      · rw [hgo] at hl
        exact List.mem_cons_of_mem _ (b1.mem_of_mem_dropZero hl)
      · simp [Prog.lines] at h
      · rw [hend] at hl; simp [Prog.lines] at hl

theorem Block.lines_clkStep {b : Block} (p : Pins) (slip : Option Level) (hr : b.rstN = true)
    (h : Line.testOverrun ∉ b.seq.prog.lines) : ∀ l ∈ (b.clkStep p slip).seq.prog.lines, l ∈ b.seq.prog.lines := by
  cases hm : b.seq.mid with
  | true =>
    rw [Block.clkStep_mid p slip hr hm]
    exact Block.lines_seqStep (b := b.redraw slip) h
  | false =>
    rw [Block.clkStep_begins p slip hr hm, ← Block.begun]
    have hseq := (b.begun_keeps p slip).2.1
    rw [← hseq] at h ⊢
    exact Block.lines_seqStep h

/-- A step of the clock stays in the frame. -/
theorem Block.Framed.clkStep {b x : Block} {ls : List Line} (h : b.Framed ls x) (hls : Line.testOverrun ∉ ls)
    (hr : x.rstN = true) (p : Pins) (slip : Option Level) : b.Framed ls (x.clkStep p slip) where
  lines l hl := h.lines l (Block.lines_clkStep p slip hr (fun ht => hls (h.lines _ ht)) l hl)
  view f hf := by
    rw [Block.view_clkStep p slip hr fun l rest hp => hf l (h.lines l (by simp [hp, Prog.lines]))]
    exact h.view f hf

theorem Block.Framed.rstN {b x : Block} {ls : List Line} (h : b.Framed ls x)
    (hls : ∀ l ∈ ls, Part.fixed ∉ l.writes) : x.rstN = b.rstN :=
  congrArg (·.1.2.1) (h.view .fixed hls)

theorem Line.fixed_not_written (l : Line) : Part.fixed ∉ l.writes := by
  cases l <;> simp [Line.writes]

/-- Acceptance writes the command's latches, RESULT and two events, and goes to the first line. -/
theorem Block.framed_accept (b : Block) (i : Instr) (prog : List Line) :
    (b.accept i prog).Framed prog (b.accept i prog) where
  lines _ hl := Block.mem_of_mem_dropZero _ hl
  view _ _ := rfl

/-- An accepted operation over steps of clocks, of either block, leaves alone what none of its lines writes. -/
theorem exec_framed {s t : State} {i : Instr} {b b' : Block} (h : s.readyFor i b)
    (hls : Line.testOverrun ∉ programOf b.cfg i) (henv : ∀ e ∈ s.env, e.isClk = true) (hexec : exec i s = .next t)
    (hget : t.get s.port = some b') :
    (b.accept i (programOf b.cfg i)).Framed (programOf b.cfg i) b' := by
  rw [exec_of_readyFor h] at hexec
  obtain ⟨⟨hport, hr, -⟩, -⟩ := h
  set a := b.accept i (programOf b.cfg i)
  have hrun : ∃ x, t.get s.port = some x ∧ a.Framed (programOf b.cfg i) x := by
    cases hexec
    refine State.runWhile_induct (P := fun u => ∃ x, u.get s.port = some x ∧ a.Framed (programOf b.cfg i) x) s.port
      (fun u es hu => by simpa using hu) _ _ ⟨a, ?_, b.framed_accept i _⟩ ?_
    · rw [State.note_get, State.get_set_same _ hport]
    · rintro u e he ⟨x, hx, hframe⟩ - -
      cases e with
      | clk side p =>
        by_cases hside : s.port = side
        · subst hside
          have hrx : x.rstN = true := (hframe.rstN fun l _ => l.fixed_not_written).trans hr
          exact ⟨_, State.get_apply_same (e := .clk s.port p) hx, hframe.clkStep hls hrx _ _⟩
        · exact ⟨x, by rwa [State.get_apply_ne (e := .clk side p) hside], hframe⟩
      | _ => exact absurd (henv _ (by simpa using he)) (by simp [Event.isClk])
  obtain ⟨x, hx, hframe⟩ := hrun
  cases hx.symm.trans hget
  exact hframe

end Sys2Proof.Machine
end

section
/-! SUPPORT. What the operations that store nothing write (the "Flags written" of 40_transport.md R181, 42_framer.md R250
and R290, 43_checksum.md R305), read off their pseudocode. -/

namespace Sys2Proof.Machine

/-- Lines that write only the parts `fs`, none of them READ_RESP's test, which brings further lines. -/
def WriteOnly (fs : List Part) (ls : List Line) : Prop := ∀ l ∈ ls, l ≠ .testOverrun ∧ l.writes ⊆ fs

namespace WriteOnly

variable {fs : List Part} {xs ys : List Line}

theorem append (hx : WriteOnly fs xs) (hy : WriteOnly fs ys) : WriteOnly fs (xs ++ ys) := fun l hl =>
  (List.mem_append.mp hl).elim (hx l) (hy l)

theorem flatMap {α : Type} {g : α → List Line} (as : List α) (h : ∀ a, WriteOnly fs (g a)) :
    WriteOnly fs (as.flatMap g) := fun l hl =>
  let ⟨a, _, hla⟩ := List.mem_flatMap.mp hl
  h a l hla

theorem mono {gs : List Part} (h : WriteOnly fs xs) (hsub : fs ⊆ gs) : WriteOnly gs xs := fun l hl =>
  ⟨(h l hl).1, fun _ hf => hsub ((h l hl).2 hf)⟩

/-- The parts outside `fs` are in the frame. -/
theorem not_mem_writes (h : WriteOnly fs xs) {f : Part} (hf : f ∉ fs) : ∀ l ∈ xs, f ∉ l.writes :=
  fun l hl hw => hf ((h l hl).2 hw)

@[simp] theorem nil : WriteOnly fs [] := nofun

@[simp] theorem cons_iff {l : Line} : WriteOnly fs (l :: xs) ↔ (l ≠ .testOverrun ∧ l.writes ⊆ fs) ∧ WriteOnly fs xs :=
  List.forall_mem_cons

end WriteOnly

/-! ## The internal procedures -/

/-- XferI moves CLK and the transport, and delays (R172). -/
theorem writeOnly_xferI (d : Dir) (v : Src) : WriteOnly [.sckO, .xport, .timers] (xferI d v) := by
  refine .append (.append ?_ (.flatMap _ fun _ => ?_)) (by simp [Line.writes])
  · cases d <;> simp [Line.writes]
  · cases d <;> simp [bitPeriod, Line.writes]

theorem writeOnly_pollHs (a : Bool) : WriteOnly [.timers] (pollHs a) := by
  simp [pollHs, Line.writes]

/-- The parts that the initiator's handshake cycle writes (41_handshake.md R221), and the responder's. -/
def cycleParts : Role → List Part
  | .initiator => [.hsO, .dataOe, .sckO, .xport, .timers]
  | .responder => [.hsO, .dataOe, .xport, .timers]

theorem writeOnly_cycleI (d : Dir) (v : Src) : WriteOnly (cycleParts .initiator) (cycleI d v) := by
  have hxfer := (writeOnly_xferI d v).mono (gs := cycleParts .initiator) (by decide)
  have hpoll (a : Bool) := (writeOnly_pollHs a).mono (gs := cycleParts .initiator) (by decide)
  refine .append (.append (.append (.append (.append (.append ?_ ?_) (hpoll true)) ?_) hxfer) ?_) (hpoll false)
  · cases d <;> simp [cycleParts, Line.writes]
  · simp [cycleParts, Line.writes]
  · cases d <;> simp [cycleParts, Line.writes]
  · simp [cycleParts, Line.writes]

theorem writeOnly_cycleR (d : Dir) (v : Src) : WriteOnly (cycleParts .responder) (cycleR d v) := by
  have hpoll (a : Bool) := (writeOnly_pollHs a).mono (gs := cycleParts .responder) (by decide)
  refine .append (.append (.append (.append (.append (.append (hpoll true) ?_) ?_) ?_) ?_) (hpoll false)) ?_
  · cases d <;> simp [cycleParts, Line.writes]
  · cases d <;> simp [armLines, cycleParts, Line.writes]
  · simp [cycleParts, Line.writes]
  · simp [awaitByteLines, cycleParts, Line.writes]
  · simp [cycleParts, Line.writes]

/-! ## The operations -/

/-- READ_BYTE writes DATA.BYTE and COUNT and moves the transport (R181). -/
theorem writeOnly_readByteProg (r : Role) :
    WriteOnly [.sckO, .xport, .timers, .data, .count] (readByteProg r) := by
  refine .append ?_ (by simp [Line.writes])
  cases r with
  | initiator => exact ((writeOnly_xferI .rd .locB).mono (by decide)).append (by simp [Line.writes])
  | responder => simp [armLines, awaitByteLines, Line.writes]

/-- CKSUM_COMPUTE writes CALC, MATCH and COUNT (R305). -/
theorem writeOnly_cksumComputeProg (n : Nat) : WriteOnly [.calcA, .isMatch, .count] (cksumComputeProg n) := by
  refine .append (.append (by simp [Line.writes]) ?_) (by simp [Line.writes])
  intro l hl
  obtain ⟨j, -, rfl⟩ := List.mem_map.mp hl
  simp [Line.writes]

/-- SEND_CMD writes CALC, RXACK, MATCH and COUNT, and moves the lines (R250). -/
theorem writeOnly_sendCmdProg :
    WriteOnly [.hsO, .dataOe, .sckO, .xport, .timers, .calcA, .rxackA, .isMatch, .count] sendCmdProg := by
  refine .append (.append (.append (by simp [Line.writes]) (.flatMap _ fun j => ?_))
    ((writeOnly_cycleI .rd .locB).mono (by decide))) (by simp [Line.writes])
  exact ((writeOnly_cycleI .wr (.buf j)).mono (by decide)).append (by simp [Line.writes])

/-- RSP_WRITE_CKSUM writes CALC and COUNT, and moves the lines (R290). -/
theorem writeOnly_rspWriteCksumProg (v : Rev) (n : Nat) :
    WriteOnly [.hsO, .dataOe, .xport, .timers, .calcA, .count] (rspWriteCksumProg v n) := by
  have hcycle (x : Src) := (writeOnly_cycleR .wr x).mono (gs := [.hsO, .dataOe, .xport, .timers, .calcA, .count]) (by decide)
  refine .append (.append (.append (.append (.append (by simp [Line.writes]) ?_)
    (by simp [Line.writes])) (.flatMap _ fun j => ?_)) (hcycle .acc)) (by simp [Line.writes])
  · cases v with
    | revA => exact (hcycle .nLo).append (hcycle .nHi)
    | revB => exact hcycle .nLo
  · exact (hcycle (.buf j)).append (by simp [Line.writes])

/-- The block `b'` that an accepted operation comes to has every part outside `fs` as acceptance left it. -/
theorem exec_writeOnly {s t : State} {i : Instr} {b b' : Block} {fs : List Part} (h : s.readyFor i b)
    (henv : ∀ e ∈ s.env, e.isClk = true) (hexec : exec i s = .next t) (hget : t.get s.port = some b')
    (hw : WriteOnly fs (programOf b.cfg i)) {f : Part} (hf : f ∉ fs) :
    b'.view f = (b.accept i (programOf b.cfg i)).view f :=
  (exec_framed h (fun ht => (hw _ ht).1 rfl) henv hexec hget).view f (hw.not_mem_writes hf)

/-- The part that no line writes holds the settings and the other events. -/
theorem Block.sameSettings_of_view {b b' : Block} {i : Instr} {prog : List Line}
    (h : b'.view .fixed = (b.accept i prog).view .fixed) : b.sameSettings b' := by
  simp only [Block.view, Block.settings, Prod.mk.injEq] at h
  obtain ⟨⟨hcfg, hr, hirq, htick, hclk, hsettle, hpoll, hext⟩, -, hcmd, hwr, hstray⟩ := h
  refine ⟨hcfg, hr, hirq, htick, hclk, hsettle, hpoll, hext, hcmd.trans ?_, hwr.trans ?_, fun hrole => ?_⟩
  · simp [Block.event, Block.accept, EventBit.mask, EventBit.index]
  · simp [Block.event, Block.accept, EventBit.mask, EventBit.index]
  · replace hcfg : b'.cfg = b.cfg := hcfg
    rw [hcfg, show (b.accept i prog).cfg = b.cfg from rfl, hrole] at hstray
    refine (Option.some.inj hstray).trans ?_
    simp [Block.event, Block.accept, EventBit.mask, EventBit.index]

/-- An initiator's transport state and data_o are one part. -/
theorem Block.xport_of_view {b b' : Block} (hcfg : b'.cfg = b.cfg) (h : b'.view .xport = b.view .xport)
    (hrole : b.cfg.role = .initiator) : b'.xp = b.xp ∧ b'.out.dataO = b.out.dataO := by
  simp only [Block.view, ofInitiator, hcfg, hrole, Option.some.injEq, Prod.mk.injEq] at h
  exact h

/-- CKSUM's four fields are four parts. -/
theorem Block.cksum_of_views {b b' : Block} (hA : b'.view .calcA = b.view .calcA) (hRA : b'.view .rxackA = b.view .rxackA)
    (hB : b'.view .calcB = b.view .calcB) (hRB : b'.view .rxackB = b.view .rxackB) : b'.regs.cksum = b.regs.cksum := by
  simp only [Block.view] at hA hRA hB hRB
  rw [show b'.regs.cksum = ⟨b'.regs.cksum.calcA, b'.regs.cksum.rxackA, b'.regs.cksum.calcB, b'.regs.cksum.rxackB⟩ from rfl,
    hA, hRA, hB, hRB]

/-- Settles O51: the parts that the four operations' lines do not write. -/
theorem nonStoringFrame : Obligations.NonStoringFrame := by
  unfold Obligations.NonStoringFrame
  intro arg lvl i s t b b' hi h henv hexec hget
  obtain ⟨fs, hw, hcommon, hcase⟩ : ∃ fs, WriteOnly fs (programOf b.cfg i) ∧
      (∀ f ∈ [Part.buf, .fixed, .advlen, .calcB, .rxackB, .isMatchB], f ∉ fs) ∧
      ((i = .readByte arg lvl ∧ fs = [.sckO, .xport, .timers, .data, .count]) ∨
        (i = .cksumCompute arg lvl ∧ fs = [.calcA, .isMatch, .count]) ∨
        (i = .sendCmd arg lvl ∧ fs = [.hsO, .dataOe, .sckO, .xport, .timers, .calcA, .rxackA, .isMatch, .count]) ∨
        (i = .rspWriteCksum arg lvl ∧ fs = [.hsO, .dataOe, .xport, .timers, .calcA, .count])) := by
    simp only [List.mem_cons, List.not_mem_nil, or_false] at hi
    obtain rfl | rfl | rfl | rfl := hi
    · exact ⟨_, writeOnly_readByteProg _, by decide, by simp⟩
    · exact ⟨_, writeOnly_cksumComputeProg _, by decide, by simp⟩
    · exact ⟨_, writeOnly_sendCmdProg, by decide, by simp⟩
    · exact ⟨_, writeOnly_rspWriteCksumProg _ _, by decide, by simp⟩
  have hview {f : Part} (hf : f ∉ fs) := exec_writeOnly h henv hexec hget hw hf
  have hbuf := hview (hcommon .buf (by simp))
  have hset := Block.sameSettings_of_view (hview (hcommon .fixed (by simp)))
  refine ⟨fun off _ => ?_, hset, hview (hcommon .advlen (by simp)), hview (hcommon .calcB (by simp)),
    hview (hcommon .rxackB (by simp)), hview (hcommon .isMatchB (by simp)), ?_⟩
  · obtain ⟨hb, he⟩ := Prod.mk.inj hbuf
    rw [hb, he]
    rfl
  · obtain ⟨rfl, rfl⟩ | ⟨rfl, rfl⟩ | ⟨rfl, rfl⟩ | ⟨rfl, rfl⟩ := hcase
    · have hcksum : b'.regs.cksum = b.regs.cksum :=
        Block.cksum_of_views (hview (f := .calcA) (by decide)) (hview (f := .rxackA) (by decide))
          (hview (f := .calcB) (by decide)) (hview (f := .rxackB) (by decide))
      exact ⟨fun h => absurd rfl h, fun _ => hcksum, fun _ => congrArg Cksum.rxackA hcksum,
        fun _ => ⟨hview (f := .hsO) (by decide), hview (f := .dataOe) (by decide)⟩, nofun⟩
    · have hx := Block.xport_of_view hset.1 (hview (f := .xport) (by decide))
      exact ⟨fun _ => hview (f := .data) (by decide), nofun, fun _ => hview (f := .rxackA) (by decide), nofun,
        fun _ => ⟨⟨hview (f := .hsO) (by decide), hview (f := .sckO) (by decide), hview (f := .dataOe) (by decide)⟩, hx⟩⟩
    · exact ⟨fun _ => hview (f := .data) (by decide), nofun, fun h => absurd rfl h, nofun, nofun⟩
    · exact ⟨fun _ => hview (f := .data) (by decide), nofun, fun _ => hview (f := .rxackA) (by decide), nofun, nofun⟩

end Sys2Proof.Machine
end

section
/-! SUPPORT. A block over steps of its clock with what crosses DATA meanwhile: on a bus, where the pins and the draws may be
anything, or alone, where they are the schedule's. -/

namespace Sys2Proof.Machine

/-! ## Steps of the clock along a schedule -/

/-- What a step from `b` to `b'` puts on or takes from DATA, as Block.wire lists it. -/
def Block.taken (b b' : Block) : List (Bool × Level) :=
  if b.takesBit b' then [(b'.out.dataOe, if b'.out.dataOe then b'.out.dataO else b'.sync.bit)] else []

theorem Block.wire_busy {b : Block} (p : Pins) (ps : List Pins) (h : b.busy = true) :
    b.wire (p :: ps) = b.taken (b.clkStep p) ++ (b.clkStep p).wire ps := by
  simp [Block.wire, h, Block.taken]

theorem Block.wire_idle {b : Block} (ps : List Pins) (h : b.busy = false) : b.wire ps = [] := by
  cases ps <;> simp [Block.wire, h]

/-- The block is busy before each of `n` steps of the schedule `ps`, and `Q` holds after them of the schedule left, of what
crossed DATA, `w` before, and of the block. A block that is `alone` sees the schedule's pins and no draw. A schedule that
ends before that claims nothing. -/
def Block.Along (alone : Prop) (Q : List Pins → List (Bool × Level) → Block → Prop) :
    Nat → List Pins → List (Bool × Level) → Block → Prop
  | 0, ps, w, b => Q ps w b
  | _ + 1, [], _, _ => True
  | n + 1, p :: ps, w, b => b.busy = true ∧ ∀ q slip, (alone → q = p ∧ slip = none) →
      Block.Along alone Q n ps (w ++ b.taken (b.clkStep q slip)) (b.clkStep q slip)

/-- An operation that ends with the schedule's own steps leaves the rest of the schedule. -/
theorem State.runWhile_along {alone : Prop} {side : Side} {Q : Block → Prop} (es : List Event) (ps : List Pins) :
    ∀ {s : State} {b : Block} {w : List (Bool × Level)}, (alone → s.far = none) → s.get side = some b →
      b.Along alone (fun _ _ x => x.busy = false ∧ Q x) ps.length ps w →
      ∃ b', (State.runWhile side (clks side ps ++ es) s).env = es ∧
        (State.runWhile side (clks side ps ++ es) s).get side = some b' ∧ Q b' := by
  induction ps with
  | nil =>
    rintro s b w - hget ⟨hidle, hQ⟩
    have hstop : s.running side = false := by rw [State.running, hget]; exact hidle
    refine ⟨b, ?_⟩
    rw [clks, List.map_nil, List.nil_append, State.runWhile_stop es hstop]
    exact ⟨rfl, by rw [State.get_withEnv, hget], hQ⟩
  | cons p ps ih =>
    rintro s b w halone hget ⟨hbusy, hnext⟩
    have hrun : s.running side = true := by rw [State.running, hget]; exact hbusy
    have hpresent : s.present (.clk side p) = true := by rw [State.present, Event.side, hget]; rfl
    have hstep : (s.apply (.clk side p)).get side = some (b.clkStep (s.pinsAt side b p) (s.slip side)) :=
      State.get_apply_same (e := .clk side p) hget
    have hfar (ha : alone) : s.get .far = none := halone ha
    have hpins (ha : alone) : s.pinsAt side b p = p ∧ s.slip side = none := by
      refine ⟨?_, s.slip_alone side (hfar ha)⟩
      cases side with
      | near => rw [State.pinsAt, Side.other, hfar ha]
      | far => cases hget.symm.trans (hfar ha)
    have hfar' (ha : alone) : (s.apply (.clk side p)).far = none := by
      simpa [hfar ha] using s.isSome_get_apply (.clk side p) .far
    rw [clks, List.map_cons, List.cons_append, State.runWhile_cons _ hrun hpresent]
    exact ih hfar' hstep (hnext _ _ hpins)

/-- An accepted operation that ends with the steps scheduled for its block's clock. -/
theorem exec_along {s : State} {i : Instr} {b : Block} {ps : List Pins} {es : List Event} {Q : Block → Prop}
    (h : s.readyFor i b) (henv : s.env = clks s.port ps ++ es)
    (hrun : (b.accept i (programOf b.cfg i)).Along (s.far = none) (fun _ _ x => x.busy = false ∧ Q x) ps.length ps []) :
    ∃ t b', exec i s = .next t ∧ t.env = es ∧ t.get s.port = some b' ∧ Q b' := by
  have hexec := exec_of_readyFor h
  obtain ⟨⟨hget, -, -⟩, -⟩ := h
  set s1 := (s.set s.port (b.accept i (programOf b.cfg i))).note
  have hget1 : s1.get s.port = some (b.accept i (programOf b.cfg i)) := by
    rw [State.note_get, State.get_set_same _ hget]
  have hfar (ha : s.far = none) : s1.far = none := by
    cases hport : s.port <;> simp [s1, State.set, hport, ha]
  obtain ⟨b', henv', hget', hQ⟩ := State.runWhile_along es ps hfar hget1 hrun
  rw [← henv] at henv' hget'
  exact ⟨_, b', hexec, henv', hget', hQ⟩

/-- What a block alone does along a schedule is what it does in its run, and what crosses DATA is on its wire. -/
theorem Block.Along.run_wire {Q : List Pins → List (Bool × Level) → Block → Prop} {n : Nat} :
    ∀ {ps : List Pins} {w : List (Bool × Level)} {b : Block}, b.Along True Q n ps w → n ≤ ps.length →
      ∃ ps' w' b', Q ps' w' b' ∧ b.runPins ps = b'.runPins ps' ∧ w ++ b.wire ps = w' ++ b'.wire ps' := by
  induction n with
  | zero => exact fun {ps w b} h _ => ⟨ps, w, b, h, rfl, rfl⟩
  | succ n ih =>
    intro ps w b h hlen
    cases ps with
    | nil => cases hlen
    | cons p ps =>
      obtain ⟨hbusy, hnext⟩ := h
      obtain ⟨ps', w', b', hQ, hrun, hwire⟩ := ih (hnext p none fun _ => ⟨rfl, rfl⟩) (Nat.le_of_succ_le_succ hlen)
      exact ⟨ps', w', b', hQ, (Block.runPins_busy p ps hbusy).trans hrun, by
        rw [Block.wire_busy p ps hbusy, ← List.append_assoc, hwire]⟩

/-! ## What the synchronisers bring -/

/-- A shift of a synchroniser: the stream of its last stage, oldest level first, with the levels `vs` to come behind. -/
theorem shiftChain_stream {chain : List Level} (h : chain ≠ []) (v : Level) (vs : List Level) :
    shiftChain v chain ≠ [] ∧ (shiftChain v chain).reverse ++ vs = (chain.reverse ++ v :: vs).tail ∧
      lastStage chain = (chain.reverse ++ v :: vs).getD 0 false ∧
      lastStage (shiftChain v chain) = (chain.reverse ++ v :: vs).getD 1 false := by
  obtain ⟨u, us, hrev⟩ := List.exists_cons_of_ne_nil (List.reverse_ne_nil_iff.mpr h)
  refine ⟨by simp [shiftChain, h], ?_, ?_, ?_⟩
  · rw [reverse_shiftChain, hrev]; simp
  · rw [lastStage_eq_reverse, hrev]; rfl
  · rw [lastStage_eq_reverse, reverse_shiftChain, hrev]; cases us <;> rfl

/-- The synchronisers `y`, with the pins `ps` to come, bring the levels `D` of data_i to a block that is alone, and on a
responder, which is alone then, the levels `E` of sck_i; of each the first is the last cycle's. -/
structure Sync.Brings (alone : Prop) (role : Role) (D E : List Level) (ps : List Pins) (y : Sync) : Prop where
  data : alone → y.data ≠ [] ∧ y.data.reverse ++ ps.map Pins.data = D
  sck : role = .responder → alone ∧ y.sck ≠ [] ∧ y.sckPrev = lastStage y.sck ∧ y.sck.reverse ++ ps.map Pins.sck = E

/-- The synchronisers after the start of a clk cycle. -/
theorem Block.begun_sync (b : Block) (p : Pins) (slip : Option Level) :
    (b.begun p slip).sync.data = shiftChain p.data b.sync.data ∧
      (b.begun p slip).sync.bit = slip.getD (lastStage (shiftChain p.data b.sync.data)) ∧
      (b.cfg.role = .responder → (b.begun p slip).sync.sck = shiftChain p.sck b.sync.sck ∧
        (b.begun p slip).sync.sckPrev = lastStage (shiftChain p.sck b.sync.sck)) := by
  obtain ⟨-, hbit, hdata⟩ := (b.syncShift p slip).edgeEngine_keeps
  refine ⟨hdata, hbit, fun hrole => ?_⟩
  have hprev : (b.begun p slip).sync.sckPrev = (b.syncShift p slip).sckSample := by
    simp [Block.begun, Block.edgeEngine, Block.syncShift, hrole]
  have hsck : (b.syncShift p slip).sync.sck = shiftChain p.sck b.sync.sck := by simp [Block.syncShift, hrole]
  refine ⟨?_, hprev.trans (congrArg lastStage hsck)⟩
  obtain ⟨ev, x, d, q, -, he⟩ := (b.syncShift p slip).edgeEngine_eq
  rw [Block.begun, he, ← hsck]

/-- A clk cycle takes the first level off both streams, and samples the next. -/
theorem Sync.Brings.begun {alone : Prop} {D E : List Level} {p : Pins} {ps : List Pins} {b : Block}
    (h : b.sync.Brings alone b.cfg.role D E (p :: ps)) {q : Pins} {slip : Option Level}
    (halone : alone → q = p ∧ slip = none) :
    (b.begun q slip).sync.Brings alone b.cfg.role D.tail E.tail ps ∧
      (alone → (b.begun q slip).sync.bit = D.getD 1 false) ∧
      (b.cfg.role = .responder → b.sync.sckPrev = E.getD 0 false ∧
        lastStage (shiftChain q.sck b.sync.sck) = E.getD 1 false) := by
  obtain ⟨hdata, hbit, hresp⟩ := b.begun_sync q slip
  refine ⟨⟨fun ha => ?_, fun hrole => ?_⟩, fun ha => ?_, fun hrole => ?_⟩
  · obtain ⟨rfl, rfl⟩ := halone ha
    obtain ⟨hne, rfl⟩ := h.data ha
    obtain ⟨hne', hshift, -, -⟩ := shiftChain_stream hne q.data (ps.map Pins.data)
    rw [hdata]
    exact ⟨hne', hshift⟩
  · obtain ⟨ha, hne, hprev, rfl⟩ := h.sck hrole
    obtain ⟨rfl, rfl⟩ := halone ha
    obtain ⟨hsck, hprev'⟩ := hresp hrole
    obtain ⟨hne', hshift, -, -⟩ := shiftChain_stream hne q.sck (ps.map Pins.sck)
    rw [hsck, hprev']
    exact ⟨ha, hne', rfl, hshift⟩
  · obtain ⟨rfl, rfl⟩ := halone ha
    obtain ⟨hne, rfl⟩ := h.data ha
    rw [hbit]
    exact (shiftChain_stream hne q.data (ps.map Pins.data)).2.2.2
  · obtain ⟨ha, hne, hprev, rfl⟩ := h.sck hrole
    obtain ⟨rfl, rfl⟩ := halone ha
    obtain ⟨-, -, hzero, hone⟩ := shiftChain_stream hne q.sck (ps.map Pins.sck)
    exact ⟨hprev.trans hzero, hone⟩

theorem Block.Inv.syncStages_eq_add_one {b : Block} (h : b.Inv) : ∃ k, b.cfg.syncStages = k + 1 := by
  have hwf := h.cfgWf
  simp only [Config.wf, Bool.and_eq_true, decide_eq_true_eq] at hwf
  exact ⟨b.cfg.syncStages - 1, by omega⟩

/-- The invariant says that the synchronisers have stages and that sck_prev holds sck_i's last output. -/
theorem Block.Inv.brings {b : Block} (h : b.Inv) (ps : List Pins) {alone : Prop}
    (halone : b.cfg.role = .responder → alone) :
    b.sync.Brings alone b.cfg.role (b.dataStream ps) (b.sync.sck.reverse ++ ps.map Pins.sck) ps := by
  obtain ⟨k, hk⟩ := h.syncStages_eq_add_one
  have hdata := h.dataStages
  have hsck := h.sckStages
  exact ⟨fun _ => ⟨List.ne_nil_of_length_pos (by omega), rfl⟩, fun hrole =>
    ⟨halone hrole, List.ne_nil_of_length_pos (by omega), h.sckPrevTracks, rfl⟩⟩

/-! ## A clk cycle with no edge of CLK for a responder's engine -/

/-- The block after a clk cycle that runs line `l`, its synchronisers having come to `y`. -/
def Block.lined (b : Block) (y : Sync) (l : Line) (rest : List Line) : Block :=
  ((b.withSync y).runLine l rest).latchPrev

section
variable {alone : Prop} {Q : List Pins → List (Bool × Level) → Block → Prop} {D E : List Level} {ps : List Pins}
variable {w : List (Bool × Level)} {b : Block} {l : Line} {rest : List Line} {n : Nat}

/-- Where the edge engine has nothing to do, the start of a clk cycle only moves the synchronisers. -/
theorem Block.begun_of_quiet {q : Pins} {slip : Option Level}
    (h : b.cfg.role = .responder → b.sync.sckPrev = lastStage (shiftChain q.sck b.sync.sck)) :
    b.begun q slip = b.withSync (b.begun q slip).sync := by
  cases hrole : b.cfg.role with
  | initiator => rw [Block.begun_of_initiator hrole]; rfl
  | responder => rw [Block.begun_of_no_edge hrole (h hrole)]; rfl

/-- A further clk cycle along the schedule, no edge of CLK reaching a responder's engine in it. -/
theorem Block.Along.line_taken (hr : b.rstN = true) (hm : b.seq.mid = false)
    (hb : b.sync.Brings alone b.cfg.role D E ps) (hquiet : b.cfg.role = .responder → E.getD 0 false = E.getD 1 false)
    (hp : b.seq.prog = .run (l :: rest)) (hf : b.flows l = false)
    (h : ∀ y ps', (b.lined y l rest).sync.Brings alone b.cfg.role D.tail E.tail ps' → (alone → y.bit = D.getD 1 false) →
      (b.lined y l rest).Along alone Q n ps' (w ++ b.taken (b.lined y l rest))) :
    b.Along alone Q (n + 1) ps w := by
  cases ps with
  | nil => trivial
  | cons p ps =>
    refine ⟨by simp [Block.busy, hp], fun q slip halone => ?_⟩
    obtain ⟨hbrings, hbit, hsck⟩ := hb.begun halone
    have hbegun : b.begun q slip = b.withSync (b.begun q slip).sync := Block.begun_of_quiet fun hrole => by
      obtain ⟨hzero, hone⟩ := hsck hrole
      rw [hzero, hone, hquiet hrole]
    have hflow : (b.begun q slip).flows l = false := by rw [hbegun, ← hf]; cases l <;> rfl
    have hline : b.clkStep q slip = b.lined (b.begun q slip).sync l rest := by
      rw [Block.clkStep_line q slip hr hm hp hflow, hbegun]; rfl
    rw [hline]
    refine h _ ps ?_ hbit
    have hsync : (b.lined (b.begun q slip).sync l rest).sync =
        { (b.begun q slip).sync with hsPrev := ((b.withSync (b.begun q slip).sync).runLine l rest).hsSample } := by
      rw [Block.lined, Block.latchPrev_sync, Block.sync_runLine]; rfl
    rw [hsync]
    exact ⟨hbrings.data, hbrings.sck⟩

/-- The edge detector holds the first level of the stream. -/
theorem Sync.Brings.sckPrev {role : Role} {y : Sync} (h : y.Brings alone role D E ps) (hrole : role = .responder) :
    y.sckPrev = E.getD 0 false := by
  obtain ⟨-, hne, hprev, rfl⟩ := h.sck hrole
  obtain ⟨u, us, hrev⟩ := List.exists_cons_of_ne_nil (List.reverse_ne_nil_iff.mpr hne)
  rw [hprev, lastStage_eq_reverse, hrev]
  rfl

/-- Such a cycle, of a line that takes no bit: nothing crosses DATA. -/
theorem Block.Along.line (hr : b.rstN = true) (hm : b.seq.mid = false)
    (hb : b.sync.Brings alone b.cfg.role D E ps) (hquiet : b.cfg.role = .responder → E.getD 0 false = E.getD 1 false)
    (hp : b.seq.prog = .run (l :: rest)) (hf : b.flows l = false) (hl : ∀ d, l ≠ .takeBit d)
    (h : ∀ y ps', (b.lined y l rest).sync.Brings alone b.cfg.role D.tail E.tail ps' →
      (b.lined y l rest).Along alone Q n ps' w) :
    b.Along alone Q (n + 1) ps w := by
  refine .line_taken hr hm hb hquiet hp hf fun y ps' hb' _ => ?_
  have hnone : b.takesBit (b.lined y l rest) = false := by
    unfold Block.takesBit
    cases hrole : b.cfg.role with
    | initiator => simp [hp, Prog.lines, hl]
    | responder =>
      have hnext : E.tail.getD 0 false = E.getD 1 false := by cases E <;> simp
      simp only [hb.sckPrev hrole, hb'.sckPrev hrole, hnext, hquiet hrole, Bool.not_and_self]
  rw [Block.taken, hnone, if_neg (by decide), List.append_nil]
  exact h y ps' hb'

/-- The same, the line's effect written out: `z`, whatever the synchronisers come to. -/
theorem Block.Along.line_to (z : Block) (hr : b.rstN = true) (hm : b.seq.mid = false)
    (hb : b.sync.Brings alone b.cfg.role D E ps) (hquiet : b.cfg.role = .responder → E.getD 0 false = E.getD 1 false)
    (hp : b.seq.prog = .run (l :: rest)) (hf : b.flows l = false) (hl : ∀ d, l ≠ .takeBit d)
    (hz : ∀ y, b.lined y l rest = z.withSync (b.lined y l rest).sync)
    (h : ∀ y ps', y.Brings alone b.cfg.role D.tail E.tail ps' → (z.withSync y).Along alone Q n ps' w) :
    b.Along alone Q (n + 1) ps w :=
  .line hr hm hb hquiet hp hf hl fun y ps' hb' => hz y ▸ h _ ps' hb'

/-- The cycle in which an initiator takes a bit: what it drives on DATA or samples there. -/
theorem Block.Along.takeBit {d : Dir} (hr : b.rstN = true) (hm : b.seq.mid = false) (hrole : b.cfg.role = .initiator)
    (hb : b.sync.Brings alone .initiator D E ps) (hp : b.seq.prog = .run (.takeBit d :: rest))
    (h : ∀ y ps', (b.lined y (.takeBit d) rest).sync.Brings alone .initiator D.tail E.tail ps' →
      (alone → y.bit = D.getD 1 false) →
      (b.lined y (.takeBit d) rest).Along alone Q n ps'
        (w ++ [(b.out.dataOe, if b.out.dataOe then b.out.dataO else y.bit)])) :
    b.Along alone Q (n + 1) ps w := by
  rw [← hrole] at hb h
  refine .line_taken hr hm hb (fun hresp => by cases hrole.symm.trans hresp) hp rfl fun y ps' hb' hbit => ?_
  have htakes : b.takesBit (b.lined y (.takeBit d) rest) = true := by
    rw [Block.takesBit, hrole, hp]; cases d <;> rfl
  rw [Block.taken, htakes, if_pos rfl]
  exact h y ps' hb' hbit

end

end Sys2Proof.Machine
end

section
/-! SUPPORT. The transport operations of few lines (40_transport.md R182 to R184): the end of an operation, DATA_ACQUIRE and
DATA_RELEASE in their one clk cycle, XPORT_RESET in its four. -/

namespace Sys2Proof.Machine

/-- finish(OK) on an unfinished result, at the end of a clk cycle. -/
theorem Block.finishedWith_finish {x : Block} {m mb : Bool} {n : Half} (hres : x.regs.result = ⟨.none, m, mb, n⟩)
    (herr : x.event .err = false) : (x.finish .ok).latchPrev.finishedWith ⟨.ok, m, mb, n⟩ x.regs.statusOp := by
  refine ⟨x.finish_busy .ok, ?_, ?_, ?_, x.finish_statusOp .ok⟩
  · rw [Block.latchPrev_regs, Block.finish_result, hres]
  · exact (x.event_raise .done .done).trans (Bool.or_true _)
  · exact (x.event_raise .done .err).trans ((Bool.or_false _).trans herr)

/-- Acceptance clears ERR and keeps STRAY_CLK. -/
theorem Block.event_accept (b : Block) (i : Instr) (prog : List Line) :
    (b.accept i prog).event .err = false ∧ (b.accept i prog).event .strayClk = b.event .strayClk := by
  simp [Block.event, Block.accept, EventBit.mask, EventBit.index]

/-- The start of a clk cycle can raise STRAY_CLK, and leaves the other registers alone. -/
theorem Block.begun_regs (b : Block) (p : Pins) (slip : Option Level) :
    (b.begun p slip).regs.result = b.regs.result ∧ (b.begun p slip).regs.statusOp = b.regs.statusOp ∧
      (b.begun p slip).event .err = b.event .err := by
  obtain ⟨ev, x, d, q, hev, he⟩ := (b.syncShift p slip).edgeEngine_eq
  rw [Block.begun, he]
  refine ⟨rfl, rfl, ?_⟩
  obtain rfl | rfl := hev
  · rfl
  · exact (b.event_raise .strayClk .err).trans (Bool.or_false _)

/-- An operation whose only line drives data_oe and finishes. -/
theorem exec_driveOeFinish {s : State} {i : Instr} {b : Block} {p : Pins} {es : List Event} {v : Bool}
    (h : s.readyFor i b) (henv : s.env = clks s.port [p] ++ es) (hprog : programOf b.cfg i = [.driveOeFinish v]) :
    ∃ t b', exec i s = .next t ∧ t.env = es ∧ t.get s.port = some b' ∧
      b'.finishedWith ⟨.ok, false, false, 0#16⟩ i.opcode ∧ b'.out.dataOe = v ∧ b'.out.hsO = b.out.hsO ∧
      b'.out.sckO = b.out.sckO ∧ (b.cfg.role = .initiator → b'.out.dataO = b.out.dataO) := by
  obtain ⟨⟨-, hr, -⟩, -⟩ := id h
  refine exec_along h henv ⟨rfl, fun q slip _ => ?_⟩
  rw [hprog]
  set a := b.accept i [.driveOeFinish v]
  obtain ⟨-, -, -, hhs, hsck, -⟩ := a.begun_keeps q slip
  obtain ⟨hres, hop, herr⟩ := a.begun_regs q slip
  have hline : a.clkStep q slip = ((a.begun q slip).runLine (.driveOeFinish v) []).latchPrev :=
    Block.clkStep_line q slip hr rfl rfl rfl
  rw [hline]
  have hdone := Block.finishedWith_finish (x := (a.begun q slip).driveOe v) hres (herr.trans (b.event_accept _ _).1)
  rw [show ((a.begun q slip).driveOe v).regs.statusOp = i.opcode from hop] at hdone
  refine ⟨hdone.1, hdone, rfl, hhs, hsck, fun hrole => ?_⟩
  rw [Block.begun_of_initiator (b := a) hrole]
  rfl

/-- Settles O30: the two operations of one line each. -/
theorem dataOwnershipCompletes : Obligations.DataOwnershipCompletes := by
  unfold Obligations.DataOwnershipCompletes
  exact fun arg lvl s b p es henv => ⟨fun h => exec_driveOeFinish h henv rfl, fun h => exec_driveOeFinish h henv rfl⟩

/-! ## XPORT_RESET -/

/-- Along a quiet clock a responder's engine sees CLK high. -/
theorem Block.clockQuiet.brings {b : Block} {alone : Prop} {ps : List Pins} (h : b.Inv)
    (hquiet : b.cfg.role = .initiator ∨ (alone ∧ b.clockQuiet ∧ ∀ p ∈ ps, p.sck = true)) :
    b.sync.Brings alone b.cfg.role (b.dataStream ps) (List.replicate (b.cfg.syncStages + ps.length) true) ps := by
  obtain hrole | ⟨halone, ⟨-, hchain⟩, hps⟩ := hquiet
  · exact ⟨(h.brings ps fun hresp => by cases hrole.symm.trans hresp).data, fun hresp => by cases hrole.symm.trans hresp⟩
  · have hE : b.sync.sck.reverse ++ ps.map Pins.sck = List.replicate (b.cfg.syncStages + ps.length) true := by
      refine List.eq_replicate_iff.mpr ⟨by simp [h.sckStages], fun v hv => ?_⟩
      simp only [List.mem_append, List.mem_reverse, List.mem_map] at hv
      obtain hv | ⟨p, hp, rfl⟩ := hv
      · exact hchain v hv
      · exact hps p hp
    rw [← hE]
    exact h.brings ps fun _ => halone

/-- The accepting block of XPORT_RESET after each of its first three lines (40_transport.md R184). -/
def Block.resetCleared (a : Block) : Block :=
  { a with xp := ⟨0#8, 0#3, false, false, a.xp.hph⟩, seq.prog := .run (xportResetProg.drop 1) }

def Block.resetReleased (a : Block) : Block :=
  { a.resetCleared with out := ⟨a.out.sckO, true, false, a.out.hsO⟩, seq.prog := .run (xportResetProg.drop 2) }

def Block.resetHigh (a : Block) : Block :=
  { a.resetReleased with out := ⟨true, true, false, a.out.hsO⟩, seq.prog := .run (xportResetProg.drop 3) }

/-- The third line drives an initiator's CLK high; a responder's sck_o, which it lacks, is 1 anyway. -/
theorem Block.lined_xportSck {a : Block} (h : a.cfg.role = .responder → a.out.sckO = true) (x y : Sync) :
    (a.resetReleased.withSync x).lined y .xportSck [.finish .ok] =
      a.resetHigh.withSync ((a.resetReleased.withSync x).lined y .xportSck [.finish .ok]).sync := by
  cases hrole : a.cfg.role with
  | initiator =>
    simp only [Block.lined, Block.runLine,
      show ((a.resetReleased.withSync x).withSync y).cfg.role = .initiator from hrole]
    rfl
  | responder =>
    simp only [Block.lined, Block.runLine,
      show ((a.resetReleased.withSync x).withSync y).cfg.role = .responder from hrole]
    have hout : a.resetReleased.out = ⟨true, true, false, a.out.hsO⟩ := by rw [Block.resetReleased, h hrole]
    rw [Block.resetHigh, ← hout]
    rfl

/-- Settles O31: the four lines one after the other, on either role, with no edge of CLK between them. -/
theorem xportResetCompletes : Obligations.XportResetCompletes := by
  unfold Obligations.XportResetCompletes
  intro arg lvl s b ps es h hinv henv hlen hquiet
  obtain ⟨⟨-, hr, hidle⟩, -⟩ := id h
  refine exec_along h henv ?_
  set a := b.accept (.xportReset arg lvl) xportResetProg
  obtain ⟨k, hk⟩ := hinv.syncStages_eq_add_one
  have hbrings := Block.clockQuiet.brings hinv hquiet
  rw [hlen, hk, Nat.add_assoc, Nat.add_comm 1] at hbrings
  rw [hlen]
  refine .line_to (b := a) a.resetCleared hr rfl hbrings (fun _ => rfl) rfl rfl nofun (fun _ => rfl) fun y1 ps1 h1 => ?_
  refine .line_to a.resetReleased hr rfl h1 (fun _ => rfl) rfl rfl nofun (fun _ => rfl) fun y2 ps2 h2 => ?_
  refine .line_to a.resetHigh hr rfl h2 (fun _ => rfl) rfl rfl nofun (Block.lined_xportSck (a := a) hinv.responder y2)
    fun y3 ps3 h3 => ?_
  refine .line (l := .finish .ok) (rest := []) hr rfl h3 (fun _ => rfl) rfl rfl nofun fun y4 ps4 h4 => ?_
  have hdone := Block.finishedWith_finish (x := (a.resetHigh.withSync y3).withSync y4) (m := false) (mb := false)
    (n := 0#16) rfl (b.event_accept _ xportResetProg).1
  refine ⟨hdone.1, hdone, ?_, ?_, ?_, ?_, ?_⟩
  · exact congrArg _ (hinv.hph_of_idle hidle)
  · rfl
  · exact (Block.event_strayClk_finish _ _).trans (b.event_accept _ xportResetProg).2
  · rfl
  · rfl

end Sys2Proof.Machine
end

section
/-! SUPPORT. An initiator's byte transfer XferI in either direction (40_transport.md R172), clk cycle by clk cycle: the holds,
the delay after it, a bit period and eight of them, and with them WRITE_BYTE and READ_BYTE (R180, R181). -/

namespace Sys2Proof.Machine

/-! ## Lines that last -/

/-- Blocks that differ in their position alone go on alike. -/
theorem Block.goto_congr {x y : Block} (h : { x with seq.prog := .idle } = { y with seq.prog := .idle }) (ls : List Line) :
    x.goto ls = y.goto ls := by
  have hticks (z : Block) (d : Delay) : z.ticks d = ({ z with seq.prog := .idle } : Block).ticks d := by cases d <;> rfl
  have hdrop : x.dropZero ls = y.dropZero ls := Block.dropZero_congr (fun d => by rw [hticks x, hticks y, h]) ls
  calc x.goto ls = { ({ x with seq.prog := .idle } : Block) with seq.prog := .run (x.dropZero ls) } := rfl
    _ = { ({ y with seq.prog := .idle } : Block) with seq.prog := .run (y.dropZero ls) } := by rw [h, hdrop]

/-- No delay's length is in the synchronisers. -/
theorem Block.withSync_goto (b : Block) (y : Sync) (ls : List Line) : (b.goto ls).withSync y = (b.withSync y).goto ls := by
  have hdrop : (b.withSync y).dropZero ls = b.dropZero ls := Block.dropZero_congr (fun d => by cases d <;> rfl) ls
  rw [Block.goto, Block.goto, hdrop]
  rfl

/-- A half of a bit period is over: HPH is back at 0 (10_state.md R63). -/
def Block.endHalf (b : Block) : Block := { b with xp.hph := 0#16 }

section
variable {alone : Prop} {Q : List Pins → List (Bool × Level) → Block → Prop} {D : List Level} {ps : List Pins}
variable {w : List (Bool × Level)} {b : Block} {l : Line} {rest : List Line} {n : Nat}

/-- A clk cycle of an initiator. -/
theorem Block.Along.initiator (hr : b.rstN = true) (hm : b.seq.mid = false)
    (hrole : b.cfg.role = .initiator) (hb : b.sync.Brings alone .initiator D [] ps) (hp : b.seq.prog = .run (l :: rest))
    (hf : b.flows l = false) (hl : ∀ d, l ≠ .takeBit d)
    (h : ∀ y ps', (b.lined y l rest).sync.Brings alone .initiator D.tail [] ps' →
      (b.lined y l rest).Along alone Q n ps' w) :
    b.Along alone Q (n + 1) ps w := by
  rw [← hrole] at hb h
  exact .line hr hm hb (fun hresp => by cases hrole.symm.trans hresp) hp hf hl h

/-- The same, the line's effect written out. -/
theorem Block.Along.initiator_line (z : Block) (hr : b.rstN = true) (hm : b.seq.mid = false)
    (hrole : b.cfg.role = .initiator) (hb : b.sync.Brings alone .initiator D [] ps) (hp : b.seq.prog = .run (l :: rest))
    (hf : b.flows l = false) (hl : ∀ d, l ≠ .takeBit d)
    (hz : ∀ y, b.lined y l rest = z.withSync (b.lined y l rest).sync)
    (h : ∀ y ps', y.Brings alone .initiator D.tail [] ps' → (z.withSync y).Along alone Q n ps' w) :
    b.Along alone Q (n + 1) ps w :=
  .initiator hr hm hrole hb hp hf hl fun y ps' hb' => hz y ▸ h _ ps' hb'

/-- What a block does along a schedule from lines on, one that differs in its position alone does too. -/
theorem Block.Along.goto_congr {x y : Block} (h : (x.goto rest).Along alone Q n ps w)
    (hxy : { x with seq.prog := .idle } = { y with seq.prog := .idle }) : (y.goto rest).Along alone Q n ps w :=
  Block.goto_congr hxy rest ▸ h

/-- A hold, entered with HPH cycles of its half gone, ends its half after CLKDIV.DIV + 1 cycles of it, itself taking at
least one (10_state.md R54; log 8). -/
theorem Block.Along.hold {k : Nat} : ∀ {b : Block} {D : List Level} {ps : List Pins}, b.rstN = true → b.seq.mid = false →
    b.cfg.role = .initiator → b.sync.Brings alone .initiator D [] ps → b.seq.prog = .run (.hold :: rest) →
    b.regs.clkdiv.toNat - b.xp.hph.toNat = k →
    (∀ y ps', y.Brings alone .initiator (D.drop (k + 1)) [] ps' →
      ((b.endHalf.withSync y).goto rest).Along alone Q n ps' w) →
    b.Along alone Q (n + k + 1) ps w := by
  induction k with
  | zero =>
    intro b D ps hr hm hrole hb hp hk h
    have hlast : ¬ b.xp.hph < b.regs.clkdiv := fun hlt => by have := BitVec.lt_def.mp hlt; omega
    refine .initiator_line (b.endHalf.goto rest) hr hm hrole hb hp rfl nofun (fun y => ?_)
      fun y ps' hb' => ?_
    · simp only [Block.lined, Block.runLine, Block.holdCycle]
      rw [if_neg (by exact hlast), Block.withSync_goto]
      have hgo := Block.withSync_goto (b.endHalf.withSync y) ((b.endHalf.withSync y).goto rest).latchPrev.sync rest
      exact hgo
    · rw [Block.withSync_goto]
      rw [← List.drop_one] at hb'
      exact h y ps' hb'
  | succ k ih =>
    intro b D ps hr hm hrole hb hp hk h
    have hlt : b.xp.hph < b.regs.clkdiv := BitVec.lt_def.mpr (by omega)
    refine .initiator_line { b.countHalf with seq.prog := .run (.hold :: rest) } hr hm hrole hb hp rfl nofun (fun y => ?_)
      fun y ps' hb' => ?_
    · simp only [Block.lined, Block.runLine, Block.holdCycle]
      rw [if_pos (by exact hlt)]
      rfl
    · refine ih hr hm hrole hb' rfl ?_ fun y' ps'' hb'' => ?_
      · have hcount := toNat_succ_of_lt (x := b.xp.hph) (by have := b.regs.clkdiv.isLt; omega)
        change b.regs.clkdiv.toNat - (b.xp.hph + 1#16).toNat = k
        omega
      · rw [List.drop_tail] at hb''
        exact (h y' ps'' hb'').goto_congr rfl

/-- The rest of a delay of an initiator (41_handshake.md R214). -/
theorem Block.Along.delaying {d : Delay} {m : Nat} : ∀ {b : Block} {D : List Level} {ps : List Pins}, b.rstN = true →
    b.seq.mid = false → b.cfg.role = .initiator → b.sync.Brings alone .initiator D [] ps → b.Delaying d rest m →
    (∀ y ps', y.Brings alone .initiator (D.drop m) [] ps' →
      ((({ b with tmr := .reset } : Block).withSync y).goto rest).Along alone Q n ps' w) →
    b.Along alone Q (n + m) ps w := by
  induction m with
  | zero =>
    intro b D ps hr hm hrole hb hdel h
    cases hdel with | past hp ht =>
    have hself : b.goto rest = b := by rw [Block.goto, ← hp]
    rw [← hself]
    exact (h b.sync ps hb).goto_congr (by rw [← ht]; rfl)
  | succ m ih =>
    intro b D ps hr hm hrole hb hdel h
    have hp : b.seq.prog = .run (.delay d :: rest) := by cases hdel with | going hp => exact hp
    refine .initiator hr hm hrole hb hp rfl nofun fun y ps' hb' => ?_
    have hline : b.lined y (.delay d) rest =
        ((b.withSync y).delayCycle ((b.withSync y).ticks d) (.delay d :: rest) rest).latchPrev := rfl
    have hdel' := (hdel.congr (b' := b.withSync y) rfl rfl rfl).delayCycle
    obtain ⟨tmr, prog, heq⟩ := (b.withSync y).delayCycle_eq ((b.withSync y).ticks d) (.delay d :: rest) rest
    rw [hline] at hb' ⊢
    rw [heq] at hb' hdel' ⊢
    refine ih hr hm hrole hb' (hdel'.congr rfl rfl rfl) fun y' ps'' hb'' => ?_
    rw [List.drop_tail] at hb''
    exact (h y' ps'' hb'').goto_congr rfl

/-- A delay of an initiator. -/
theorem Block.Along.delay {d : Delay} (hr : b.rstN = true) (hm : b.seq.mid = false) (hrole : b.cfg.role = .initiator)
    (hb : b.sync.Brings alone .initiator D [] ps) (ht : b.tmr = .reset) (hp : b.seq.prog = .run (b.dropZero (.delay d :: rest)))
    (h : ∀ y ps', y.Brings alone .initiator (D.drop (b.delayCycles (b.ticks d))) [] ps' →
      ((b.withSync y).goto rest).Along alone Q n ps' w) :
    b.Along alone Q (n + b.delayCycles (b.ticks d)) ps w :=
  .delaying hr hm hrole hb (Block.delaying_of_prog ht hp) fun y ps' hb' => by
    rw [← ht]; exact h y ps' hb'

/-! ## A bit period -/

/-- What a bit period moves: SH, BITCNT, HPH, CLK, data_o and XferI's d. -/
structure Moving where
  sh : Byte
  bitcnt : BitVec 3
  hph : Half
  sck : Level
  dataO : Level
  d : Level

/-- The initiator `b` where a transfer has come to `m`, with the lines `ls` to come. -/
def Block.moving (b : Block) (m : Moving) (ls : List Line) : Block :=
  { b with
    xp := ⟨m.sh, m.bitcnt, b.xp.byteDone, b.xp.armed, m.hph⟩
    out := ⟨m.sck, m.dataO, b.out.dataOe, b.out.hsO⟩
    seq.prog := .run ls
    seq.locs.d := m.d }

/-- A bit to write goes onto DATA. -/
def Moving.put (m : Moving) : Dir → Moving
  | .wr => { m with dataO := m.sh.getLsbD 0 }
  | .rd => m

/-- The bit that enters SH: the one written, or the one sampled, `u`. -/
def Moving.taken (m : Moving) (u : Level) : Dir → Level
  | .wr => m.sh.getLsbD 0
  | .rd => u

/-- A whole bit period in which `u` is sampled (40_transport.md R172). -/
def Moving.bit (m : Moving) (dir : Dir) (u : Level) : Moving :=
  ⟨shiftIn (m.taken u dir) m.sh, m.bitcnt + 1#3, 0#16, true, (m.put dir).dataO, m.taken u dir⟩

/-- The lines of the low half before its hold. -/
def Dir.lowLines : Dir → List Line
  | .wr => [.sckLow, .putBit]
  | .rd => [.sckLow]

/-- The lines of the high half before its hold. -/
def Dir.highLines (dir : Dir) : List Line := [.sckHigh, .takeBit dir, .shiftBit, .countBit]

theorem bitPeriod_eq (dir : Dir) : bitPeriod dir = dir.lowLines ++ .hold :: (dir.highLines ++ [.hold]) := by
  cases dir <;> rfl

/-- The low half of a bit period: CLK low, a bit to write on DATA, the hold. -/
theorem Block.Along.lowHalf {dir : Dir} {m : Moving} {y : Sync} (hr : b.rstN = true) (hm : b.seq.mid = false)
    (hrole : b.cfg.role = .initiator) (hb : y.Brings alone .initiator D [] ps) (hhph : m.hph = 0#16)
    (h : ∀ y' ps', y'.Brings alone .initiator (D.drop (b.lowHalf dir)) [] ps' →
      (((b.moving { m.put dir with sck := false, hph := 0#16 } []).withSync y').goto rest).Along alone Q n ps' w) :
    ((b.moving m (dir.lowLines ++ .hold :: rest)).withSync y).Along alone Q (n + b.lowHalf dir) ps w := by
  cases dir with
  | rd =>
    have hlen : b.lowHalf .rd = b.regs.clkdiv.toNat - 1 + 1 + 1 := by simp only [Block.lowHalf, Block.halfPeriod]; omega
    rw [hlen] at h ⊢
    refine .initiator_line (b.moving { m with sck := false, hph := m.hph + 1#16 } (.hold :: rest)) hr hm hrole hb rfl rfl
      nofun (fun _ => rfl) fun y1 ps1 h1 => ?_
    refine .hold hr hm hrole h1 rfl (by simp [Block.moving, Block.withSync, hhph]) fun y2 ps2 h2 => ?_
    exact (h y2 ps2 (by simpa using h2)).goto_congr rfl
  | wr =>
    have hlen : b.lowHalf .wr = b.regs.clkdiv.toNat - 2 + 1 + 1 + 1 := by
      simp only [Block.lowHalf, Block.halfPeriod]; omega
    rw [hlen] at h ⊢
    refine .initiator_line (b.moving { m with sck := false, hph := m.hph + 1#16 } (.putBit :: .hold :: rest)) hr hm hrole
      hb rfl rfl nofun (fun _ => rfl) fun y1 ps1 h1 => ?_
    refine .initiator_line (b.moving { m.put .wr with sck := false, hph := m.hph + 1#16 + 1#16 } (.hold :: rest)) hr hm
      hrole h1 rfl rfl nofun (fun _ => rfl) fun y2 ps2 h2 => ?_
    refine .hold hr hm hrole h2 rfl (by simp [Block.moving, Block.withSync, hhph]) fun y3 ps3 h3 => ?_
    exact (h y3 ps3 (by simpa using h3)).goto_congr rfl

/-- The high half of a bit period: CLK high, the bit taken, the shift, the count, the hold. -/
theorem Block.Along.highHalf {dir : Dir} {m : Moving} {y : Sync} (hr : b.rstN = true) (hm : b.seq.mid = false)
    (hrole : b.cfg.role = .initiator) (hb : y.Brings alone .initiator D [] ps) (hhph : m.hph = 0#16)
    (h : ∀ u y' ps', y'.Brings alone .initiator (D.drop b.highHalf) [] ps' → (alone → u = D.getD 2 false) →
      (((b.moving ⟨shiftIn (m.taken u dir) m.sh, m.bitcnt + 1#3, 0#16, true, m.dataO, m.taken u dir⟩ []).withSync y').goto
        rest).Along alone Q n ps' (w ++ [(b.out.dataOe, if b.out.dataOe then m.dataO else u)])) :
    ((b.moving m (dir.highLines ++ .hold :: rest)).withSync y).Along alone Q (n + b.highHalf) ps w := by
  have hlen : b.highHalf = b.regs.clkdiv.toNat - 4 + 1 + 1 + 1 + 1 + 1 := by
    simp only [Block.highHalf, Block.halfPeriod]; omega
  rw [hlen] at h ⊢
  refine .initiator_line (b.moving { m with sck := true, hph := m.hph + 1#16 }
    (.takeBit dir :: .shiftBit :: .countBit :: .hold :: rest)) hr hm hrole hb rfl rfl nofun (fun _ => rfl)
    fun y1 ps1 h1 => ?_
  refine .takeBit hr hm hrole h1 rfl fun y2 ps2 h2 hbit => ?_
  have htake (x : Sync) : ((b.moving { m with sck := true, hph := m.hph + 1#16 }
      (.takeBit dir :: .shiftBit :: .countBit :: .hold :: rest)).withSync x).lined y2 (.takeBit dir)
      (.shiftBit :: .countBit :: .hold :: rest) =
      (b.moving { m with sck := true, hph := m.hph + 1#16 + 1#16, d := m.taken y2.bit dir }
        (.shiftBit :: .countBit :: .hold :: rest)).withSync { y2 with hsPrev := lastStage y2.hs } := by
    cases dir <;> rfl
  rw [htake] at h2 ⊢
  refine .initiator_line (b.moving ⟨shiftIn (m.taken y2.bit dir) m.sh, m.bitcnt, m.hph + 1#16 + 1#16 + 1#16, true, m.dataO,
    m.taken y2.bit dir⟩ (.countBit :: .hold :: rest)) hr hm hrole h2 rfl rfl nofun (fun _ => rfl) fun y3 ps3 h3 => ?_
  refine .initiator_line (b.moving ⟨shiftIn (m.taken y2.bit dir) m.sh, m.bitcnt + 1#3,
    m.hph + 1#16 + 1#16 + 1#16 + 1#16, true, m.dataO, m.taken y2.bit dir⟩ (.hold :: rest)) hr hm hrole h3 rfl rfl nofun
    (fun _ => rfl) fun y4 ps4 h4 => ?_
  refine .hold hr hm hrole h4 rfl (by simp [Block.moving, Block.withSync, hhph]) fun y5 ps5 h5 => ?_
  refine (h y2.bit y5 ps5 (by simpa using h5) fun ha => ?_).goto_congr rfl
  rw [hbit ha]
  cases D <;> simp

/-- A bit period. -/
theorem Block.Along.period {dir : Dir} {m : Moving} {y : Sync} (hr : b.rstN = true) (hm : b.seq.mid = false)
    (hrole : b.cfg.role = .initiator) (hb : y.Brings alone .initiator D [] ps) (hhph : m.hph = 0#16)
    (h : ∀ u y' ps', y'.Brings alone .initiator (D.drop (b.bitCycles dir)) [] ps' →
      (alone → u = D.getD (b.lowHalf dir + 2) false) →
      (((b.moving (m.bit dir u) []).withSync y').goto rest).Along alone Q n ps'
        (w ++ [(b.out.dataOe, if b.out.dataOe then (m.put dir).dataO else u)])) :
    ((b.moving m (bitPeriod dir ++ rest)).withSync y).Along alone Q (n + b.bitCycles dir) ps w := by
  have hlines : bitPeriod dir ++ rest = dir.lowLines ++ .hold :: (dir.highLines ++ .hold :: rest) := by
    rw [bitPeriod_eq]; simp
  rw [hlines, Block.bitCycles, Nat.add_comm (b.lowHalf dir), ← Nat.add_assoc]
  refine .lowHalf hr hm hrole hb hhph fun y1 ps1 h1 => ?_
  refine .highHalf (m := { m.put dir with sck := false, hph := 0#16 }) hr hm hrole h1 rfl fun u y2 ps2 h2 hu => ?_
  rw [List.drop_drop] at h2
  have hbit := h u y2 ps2 h2 fun ha => by rw [hu ha]; simp [List.getD_eq_getElem?_getD]
  cases dir <;> exact hbit

end

/-- Bit periods one after the other, in which the levels `us` are sampled. -/
def Moving.bits (m : Moving) (dir : Dir) : List Level → Moving
  | [] => m
  | u :: us => (m.bit dir u).bits dir us

/-- What crosses DATA in them. -/
def Moving.wire (m : Moving) (dir : Dir) (driven : Bool) : List Level → List (Bool × Level)
  | [] => []
  | u :: us => (driven, if driven then (m.put dir).dataO else u) :: (m.bit dir u).wire dir driven us

section
variable {alone : Prop} {Q : List Pins → List (Bool × Level) → Block → Prop} {b : Block} {rest : List Line} {n : Nat}

theorem Block.Along.periods {dir : Dir} (hr : b.rstN = true) (hm : b.seq.mid = false)
    (hrole : b.cfg.role = .initiator) (k : Nat) :
    ∀ {m : Moving} {y : Sync} {D : List Level} {ps : List Pins} {w : List (Bool × Level)},
      y.Brings alone .initiator D [] ps → m.hph = 0#16 →
      (∀ us y' ps', us.length = k → y'.Brings alone .initiator (D.drop (k * b.bitCycles dir)) [] ps' →
        (alone → ∀ j < k, us.getD j false = D.getD (j * b.bitCycles dir + b.lowHalf dir + 2) false) →
        (((b.moving (m.bits dir us) []).withSync y').goto rest).Along alone Q n ps' (w ++ m.wire dir b.out.dataOe us)) →
      (((b.moving m []).withSync y).goto ((List.replicate k (bitPeriod dir)).flatten ++ rest)).Along alone Q
        (n + k * b.bitCycles dir) ps w := by
  induction k with
  | zero =>
    intro m y D ps w hb hhph h
    have hnone := h [] y ps rfl (by simpa using hb) fun _ j hj => absurd hj (Nat.not_lt_zero j)
    rw [Moving.wire, List.append_nil] at hnone
    rw [Nat.zero_mul]
    exact hnone
  | succ k ih =>
    intro m y D ps w hb hhph h
    have hgo : ((b.moving m []).withSync y).goto ((List.replicate (k + 1) (bitPeriod dir)).flatten ++ rest) =
        (b.moving m (bitPeriod dir ++ ((List.replicate k (bitPeriod dir)).flatten ++ rest))).withSync y := by
      rw [List.replicate_succ, List.flatten_cons, List.append_assoc]
      cases dir <;> rfl
    rw [hgo, Nat.succ_mul, ← Nat.add_assoc]
    refine .period hr hm hrole hb hhph fun u y1 ps1 h1 hu => ?_
    refine ih h1 rfl fun us y2 ps2 hlen h2 hus => ?_
    rw [List.drop_drop, Nat.add_comm, ← Nat.succ_mul] at h2
    have hall := h (u :: us) y2 ps2 (by simp [hlen]) h2 fun ha j hj => by
      cases j with
      | zero => simpa using hu ha
      | succ j =>
        rw [List.getD_cons_succ, hus ha j (by omega), List.getD_eq_getElem?_getD, List.getD_eq_getElem?_getD,
          List.getElem?_drop, Nat.succ_mul]
        congr 2
        omega
    rw [List.append_assoc]
    exact hall

end

end Sys2Proof.Machine
end

section
/-! SUPPORT. WRITE_BYTE and READ_BYTE of an initiator from acceptance to their end (40_transport.md R180, R181): the byte
transfer between the lines before and after it. -/

namespace Sys2Proof.Machine

/-! ## What eight bit periods leave -/

/-- Every bit period counts a bit and leaves CLK high. -/
theorem Moving.bits_rest (dir : Dir) (us : List Level) :
    ∀ m : Moving, m.sck = true → m.hph = 0#16 → (m.bits dir us).sck = true ∧ (m.bits dir us).hph = 0#16 ∧
      (m.bits dir us).bitcnt = m.bitcnt + BitVec.ofNat 3 us.length := by
  induction us with
  | nil => exact fun m hsck hhph => ⟨hsck, hhph, by simp [Moving.bits]⟩
  | cons u us ih =>
    intro m _ _
    obtain ⟨hsck, hhph, hcnt⟩ := ih (m.bit dir u) rfl rfl
    refine ⟨hsck, hhph, hcnt.trans ?_⟩
    rw [Moving.bit, List.length_cons, BitVec.add_assoc, Nat.add_comm, BitVec.ofNat_add]

/-- Eight bit periods bring BITCNT back to where it was. -/
theorem Moving.bits_eight {dir : Dir} {us : List Level} (m : Moving) (h : us.length = 8) :
    (m.bits dir us).sck = true ∧ (m.bits dir us).hph = 0#16 ∧ (m.bits dir us).bitcnt = m.bitcnt := by
  obtain ⟨u, us, rfl⟩ := List.exists_cons_of_length_pos (l := us) (by omega)
  obtain ⟨hsck, hhph, hcnt⟩ := Moving.bits_rest dir us (m.bit dir u) rfl rfl
  refine ⟨hsck, hhph, hcnt.trans ?_⟩
  rw [List.length_cons] at h
  rw [Moving.bit, show us.length = 7 by omega, BitVec.add_assoc]
  exact BitVec.add_zero _

/-- The bits written leave the last of the byte on DATA. -/
theorem Moving.dataO_bits_wr {v : Byte} (us : List Level) :
    ∀ {m : Moving} {k : Nat}, HoldsFrom v m.sh k → us ≠ [] → k + us.length = 8 →
      (m.bits .wr us).dataO = v.getLsbD 7 := by
  induction us with
  | nil => exact fun _ hne => absurd rfl hne
  | cons u us ih =>
    intro m k hsh _ hlen
    rw [List.length_cons] at hlen
    cases us with
    | nil =>
      rw [List.length_nil] at hlen
      exact (hsh.bit (by omega)).trans (by rw [show k = 7 by omega])
    | cons u' us =>
      exact ih (m := m.bit .wr u) (hsh.shiftIn _) (List.cons_ne_nil _ _) (by omega)

/-- The bits read are those in SH, and DATA is not driven anew. -/
theorem Moving.bits_rd {f : Nat → Level} (us : List Level) :
    ∀ {m : Moving} {k : Nat}, ShiftedIn f k m.sh → k + us.length ≤ 8 → (∀ j < us.length, us.getD j false = f (k + j)) →
      ShiftedIn f (k + us.length) (m.bits .rd us).sh ∧ (m.bits .rd us).dataO = m.dataO := by
  induction us with
  | nil => exact fun hsh _ _ => ⟨hsh, rfl⟩
  | cons u us ih =>
    intro m k hsh hlen hus
    rw [List.length_cons] at hlen hus ⊢
    have hu : u = f k := by simpa using hus 0 (by omega)
    have hnext : ShiftedIn f (k + 1) (m.bit .rd u).sh := hu ▸ hsh.shiftIn (by omega)
    obtain ⟨hall, hdata⟩ := ih hnext (by omega) fun j hj => by
      have := hus (j + 1) (by omega)
      rwa [List.getD_cons_succ, show k + (j + 1) = k + 1 + j by omega] at this
    rw [show k + (us.length + 1) = k + 1 + us.length by omega]
    exact ⟨hall, hdata⟩

/-! ## The lines after the transfer -/

section
variable {alone : Prop} {Q : List (Bool × Level) → Block → Prop} {D E : List Level} {ps : List Pins} {w : List (Bool × Level)} {x : Block}

/-- COUNT <- 1 and finish(OK), with no edge of CLK for a responder's engine. -/
theorem Block.Along.count_finish (hr : x.rstN = true) (hm : x.seq.mid = false)
    (hb : x.sync.Brings alone x.cfg.role D E ps)
    (hquiet : x.cfg.role = .responder → E.getD 0 false = E.getD 1 false ∧ E.tail.getD 0 false = E.tail.getD 1 false)
    (hp : x.seq.prog = .run [.count 1, .finish .ok]) (hres : x.regs.result = .zero) (herr : x.event .err = false)
    (hQ : ∀ z : Block, z.finishedWith ⟨.ok, false, false, 1#16⟩ x.regs.statusOp → z.out = x.out → z.xp = x.xp →
      z.regs.data = x.regs.data → Q w z) :
    x.Along alone (fun _ w' z => z.busy = false ∧ Q w' z) 2 ps w := by
  refine .line_to (n := 1) { x with regs.result.count := 1#16, seq.prog := .run [.finish .ok] } hr hm hb
    (fun h => (hquiet h).1) hp rfl nofun (fun _ => rfl) fun y1 ps1 h1 => ?_
  refine .line (n := 0) hr hm h1 (fun h => (hquiet h).2) rfl rfl nofun fun y2 ps2 h2 => ?_
  have hdone := Block.finishedWith_finish (x := ({ x with
    regs.result.count := 1#16, seq.prog := .run [.finish .ok], sync := y2 } : Block)) (by simp only [hres]; rfl) herr
  exact ⟨hdone.1, hQ _ hdone rfl rfl rfl⟩

end

/-! ## The operations -/

section
variable {alone : Prop} {Q : List Pins → List (Bool × Level) → Block → Prop} {b : Block} {rest : List Line} {n : Nat}
variable {D : List Level} {ps : List Pins} {w : List (Bool × Level)}

/-- XferI from its first bit period on: eight of them and the settle delay. -/
theorem Block.Along.transfer {dir : Dir} {m : Moving} {y : Sync} (hr : b.rstN = true) (hm : b.seq.mid = false)
    (hrole : b.cfg.role = .initiator) (hb : y.Brings alone .initiator D [] ps) (hhph : m.hph = 0#16) (ht : b.tmr = .reset)
    (h : ∀ us y' ps', us.length = 8 →
      y'.Brings alone .initiator (D.drop (8 * b.bitCycles dir + b.delayCycles b.regs.byteSettle)) [] ps' →
      (alone → ∀ k < 8, us.getD k false = D.getD (k * b.bitCycles dir + b.lowHalf dir + 2) false) →
      (((b.moving (m.bits dir us) []).withSync y').goto rest).Along alone Q n ps' (w ++ m.wire dir b.out.dataOe us)) :
    (((b.moving m []).withSync y).goto ((List.replicate 8 (bitPeriod dir)).flatten ++ .delay .byteSettle :: rest)).Along
      alone Q (n + b.delayCycles b.regs.byteSettle + 8 * b.bitCycles dir) ps w := by
  refine .periods hr hm hrole 8 hb hhph fun us y1 ps1 hlen h1 hus => ?_
  set x := (b.moving (m.bits dir us) []).withSync y1 with hx
  refine Block.Along.delay (b := x.goto (.delay .byteSettle :: rest)) (d := .byteSettle) hr hm hrole h1 ht
    (Block.goto_prog x _) fun y2 ps2 h2 => ?_
  rw [List.drop_drop] at h2
  exact (h us y2 ps2 hlen h2 hus).goto_congr rfl

end

/-- In clk cycles a bit period is 2·(CLKDIV.DIV + 1) from DIV = 4 on (10_state.md R54). -/
theorem Block.bitCycles_of_le {b : Block} (d : Dir) (h : 4 ≤ b.regs.clkdiv.toNat) :
    b.bitCycles d = 2 * (b.regs.clkdiv.toNat + 1) := by
  cases d <;> simp only [Block.bitCycles, Block.lowHalf, Block.highHalf, Block.halfPeriod] <;> omega

/-- Where a block stands in a transfer. -/
def Block.move (b : Block) : Moving := ⟨b.xp.sh, b.xp.bitcnt, b.xp.hph, b.out.sckO, b.out.dataO, b.seq.locs.d⟩

/-- A block whose b holds the byte `v`. -/
def Block.holding (b : Block) (v : Byte) : Block := { b with seq.locs.b := v }

/-- The block owns DATA. -/
def Block.owning (b : Block) : Block := { b with out.dataOe := true }

/-- The accepting block of WRITE_BYTE once b holds the byte and it owns DATA. -/
def Block.sending (a : Block) : Block := (a.holding a.regs.data).owning

/-- Settles O32: three lines, eight bit periods that send the byte, the settle delay and two lines. -/
theorem initiatorWriteByteCompletes : Obligations.InitiatorWriteByteCompletes := by
  unfold Obligations.InitiatorWriteByteCompletes
  intro arg lvl s b ps es h hinv hrole henv hlen
  obtain ⟨⟨-, hr, hidle⟩, -⟩ := id h
  refine ⟨fun hdiv => by rw [hlen, Block.bitCycles_of_le .wr hdiv]; omega, exec_along h henv ?_⟩
  rw [show programOf b.cfg (.writeByte arg lvl) = writeByteProg .initiator by rw [programOf, hrole]]
  set a := b.accept (.writeByte arg lvl) (writeByteProg .initiator)
  have hbrings := hinv.brings ps (alone := s.far = none) fun hresp => by cases hrole.symm.trans hresp
  have hb : a.sync.Brings (s.far = none) .initiator (b.dataStream ps) [] ps := ⟨hbrings.data, nofun⟩
  rw [show ps.length = 2 + b.delayCycles b.regs.byteSettle + 8 * b.bitCycles .wr + 1 + 1 + 1 by omega]
  refine .initiator_line (b := a) { a.holding a.regs.data with seq.prog := .run (.driveOe true :: .loadSh .locB :: bitsToCome 8) }
    hr rfl hrole hb rfl rfl nofun (fun _ => rfl) fun y1 ps1 h1 => ?_
  refine .initiator_line { a.sending with seq.prog := .run (.loadSh .locB :: bitsToCome 8) } hr rfl hrole h1 rfl rfl
    nofun (fun _ => rfl) fun y2 ps2 h2 => ?_
  refine .initiator_line (a.sending.moving { a.move with sh := b.regs.data } (bitsToCome 8)) hr rfl hrole h2 rfl rfl
    nofun (fun _ => rfl) fun y3 ps3 h3 => ?_
  refine .transfer (dir := .wr) (b := a.sending) (m := { a.move with sh := b.regs.data }) (y := y3)
    (rest := [.count 1, .finish .ok]) hr rfl hrole h3 (hinv.hph_of_idle hidle) (hinv.tmr_of_idle hidle)
    fun us y4 ps4 h8 h4 _ => ?_
  obtain ⟨hsck, -, hcnt⟩ := Moving.bits_eight (dir := .wr) { a.move with sh := b.regs.data } h8
  have hlast : (Moving.bits { a.move with sh := b.regs.data } .wr us).dataO = b.regs.data.getLsbD 7 :=
    Moving.dataO_bits_wr (k := 0) us (fun j _ => by rw [Nat.zero_add]) (List.ne_nil_of_length_pos (by omega)) (by omega)
  refine .count_finish hr rfl (hrole.symm ▸ h4) (fun hresp => by cases hrole.symm.trans hresp) rfl rfl
    (b.event_accept _ (writeByteProg .initiator)).1 fun z hdone hout hxp hdata => ⟨hdone, ?_, ?_, hdata⟩
  · exact hout.trans (congrArg₂ (fun c d => (⟨c, d, true, b.out.hsO⟩ : Outputs)) hsck hlast)
  · rw [hxp]; exact hcnt

/-- Settles O34: eight bit periods that bring the byte into SH, the settle delay and four lines. -/
theorem initiatorReadByteCompletes : Obligations.InitiatorReadByteCompletes := by
  unfold Obligations.InitiatorReadByteCompletes
  intro arg lvl s b ps es halone hinv hrole henv hlen
  obtain ⟨hfar, hport, h⟩ := halone
  obtain ⟨⟨-, hr, hidle⟩, hcheck⟩ := id h
  refine ⟨fun hdiv => by rw [hlen, Block.bitCycles_of_le .rd hdiv]; omega, ?_⟩
  have hoe : b.out.dataOe = false := by
    simpa [needsRelease] using ((b.check_ok_iff (.readByte arg lvl)).mp hcheck).2
  have hdone : ∃ t b', exec (.readByte arg lvl) s = .next t ∧ t.env = es ∧ t.get s.port = some b' ∧
      (b'.finishedWith ⟨.ok, false, false, 1#16⟩ 0x02#5 ∧
        b'.out = ⟨true, b.out.dataO, false, b.out.hsO⟩ ∧ b'.xp.bitcnt = b.xp.bitcnt ∧
        ∀ k, k < 8 → b'.regs.data.getLsbD k =
          (b.dataStream ps).getD (k * b.bitCycles .rd + b.lowHalf .rd + 2) false) := by
    refine exec_along h (by rw [henv, hport]) ?_
    rw [show programOf b.cfg (.readByte arg lvl) = readByteProg .initiator by rw [programOf, hrole]]
    set a := b.accept (.readByte arg lvl) (readByteProg .initiator)
    have hbrings := hinv.brings ps (alone := s.far = none) fun hresp => by cases hrole.symm.trans hresp
    rw [show ps.length = 1 + 1 + 1 + 1 + b.delayCycles b.regs.byteSettle + 8 * b.bitCycles .rd by omega]
    refine .transfer (dir := .rd) (b := a) (m := a.move) (y := a.sync)
      (rest := [.takeSh, .writeData, .count 1, .finish .ok]) hr rfl hrole ⟨hbrings.data, nofun⟩ (hinv.hph_of_idle hidle)
      (hinv.tmr_of_idle hidle) fun us y1 ps1 h8 h1 hus => ?_
    set m := a.move.bits .rd us
    refine .initiator_line ((a.moving m [.writeData, .count 1, .finish .ok]).holding m.sh) hr rfl hrole h1 rfl rfl nofun
      (fun _ => rfl) fun y2 ps2 h2 => ?_
    refine .initiator_line { (a.moving m [.count 1, .finish .ok]).holding m.sh with regs.data := m.sh } hr rfl hrole h2 rfl
      rfl nofun (fun _ => rfl) fun y3 ps3 h3 => ?_
    obtain ⟨hsck, -, hcnt⟩ := Moving.bits_eight (dir := .rd) a.move h8
    obtain ⟨hsh, hdata⟩ := Moving.bits_rd (m := a.move) (k := 0)
      (f := fun k => (b.dataStream ps).getD (k * b.bitCycles .rd + b.lowHalf .rd + 2) false) us (.zero _ _) (by omega)
      fun j hj => by rw [hus hfar j (by omega), Nat.zero_add]; rfl
    rw [Nat.zero_add, h8] at hsh
    refine .count_finish hr rfl (hrole.symm ▸ h3) (fun hresp => by cases hrole.symm.trans hresp) rfl rfl
      (b.event_accept (.readByte arg lvl) (readByteProg .initiator)).1 fun z hdone hout hxp hd => ⟨hdone, ?_, ?_, fun k hk => ?_⟩
    · rw [← hoe]
      exact hout.trans (congrArg₂ (fun c d => (⟨c, d, b.out.dataOe, b.out.hsO⟩ : Outputs)) hsck hdata)
    · rw [hxp]; exact hcnt
    · have hbit := hsh k hk
      rw [Nat.sub_self, Nat.zero_add] at hbit
      rw [hd]
      exact hbit
  obtain ⟨t, b', hexec, hes, hget, hall⟩ := hdone
  rw [hport] at hget
  cases hget
  exact ⟨t, hexec, hes, hall⟩

end Sys2Proof.Machine
end

section
/-! SUPPORT. WRITE_BYTE and READ_BYTE of a responder alone (40_transport.md R174 to R176, R180, R181): its opening lines while
the clock stands high, the byte that sixteen edges bring, and the lines after it. -/

namespace Sys2Proof.Machine

/-- A rising edge shifts the bit `u` in and counts it (40_transport.md R174). -/
def Moving.rose (m : Moving) (u : Level) : Moving := { m with sh := shiftIn u m.sh, bitcnt := m.bitcnt + 1#3 }

/-- Whether a responder drives DATA in a transfer (40_transport.md R175). -/
def Dir.drives : Dir → Bool
  | .wr => true
  | .rd => false

/-- The responder `b`, armed, where its byte has come to `m`; after the await come the lines `rest`. -/
def Block.following (b : Block) (m : Moving) (rest : List Line) : Block :=
  { b with
    xp := ⟨m.sh, m.bitcnt, false, true, b.xp.hph⟩
    out.dataO := m.dataO
    seq.prog := .run (.awaitByte :: rest) }

/-- The same once the byte is there, in the rest of its last cycle. -/
def Block.received (b : Block) (m : Moving) (rest : List Line) : Block :=
  { b with
    xp := ⟨m.sh, m.bitcnt, true, false, b.xp.hph⟩
    out.dataO := m.dataO
    seq.prog := .run (b.dropZero rest)
    seq.mid := true }

/-! ## The steps -/

/-- The start of a clk cycle shifts a responder's synchronisers, whatever the edge. -/
theorem Block.begun_sync_of_responder {b : Block} (hrole : b.cfg.role = .responder) (p : Pins) (slip : Option Level) :
    (b.begun p slip).sync = b.sync.shifted p slip := by
  cases hprev : b.sync.sckPrev <;> cases hnow : lastStage (shiftChain p.sck b.sync.sck)
  · rw [Block.begun_of_no_edge hrole (hprev.trans hnow.symm)]; rfl
  · rw [Block.begun_of_rise hrole hprev hnow, Block.engineRise_eq]; rfl
  · rw [Block.begun_of_fall hrole hprev hnow]; unfold Block.engineFall; split <;> rfl
  · rw [Block.begun_of_no_edge hrole (hprev.trans hnow.symm)]; rfl

section
variable {Q : List Pins → List (Bool × Level) → Block → Prop} {D E : List Level} {ps : List Pins}
variable {w : List (Bool × Level)} {b : Block} {rest : List Line} {n : Nat}

/-- A clk cycle of a responder alone: both streams move on by a level, and the second of each is what it sees. -/
theorem Block.Along.clocked (hrole : b.cfg.role = .responder) (hbusy : b.busy = true)
    (hb : b.sync.Brings True .responder D E ps)
    (h : ∀ p ps', (b.sync.shifted p none).Brings True .responder D.tail E.tail ps' →
      (b.sync.shifted p none).bit = D.getD 1 false → lastStage (shiftChain p.sck b.sync.sck) = E.getD 1 false →
      (b.clkStep p).Along True Q n ps' (w ++ b.taken (b.clkStep p))) :
    b.Along True Q (n + 1) ps w := by
  cases ps with
  | nil => trivial
  | cons p ps =>
    refine ⟨hbusy, fun q slip halone => ?_⟩
    obtain ⟨rfl, rfl⟩ := halone trivial
    rw [← hrole] at hb
    obtain ⟨hbrings, hbit, hsck⟩ := hb.begun halone
    rw [Block.begun_sync_of_responder hrole, hrole] at hbrings
    rw [Block.begun_sync_of_responder hrole] at hbit
    exact h q ps hbrings (hbit trivial) (hsck hrole).2

variable {dir : Dir} {m : Moving} {y : Sync} {u : Level}

/-- A falling edge puts the next bit to write on DATA. -/
theorem Block.Along.fall (hr : b.rstN = true) (hm : b.seq.mid = false) (hrole : b.cfg.role = .responder)
    (hoe : b.out.dataOe = dir.drives) (hb : y.Brings True .responder D (true :: false :: E) ps)
    (h : ∀ y' ps', y'.Brings True .responder D.tail (false :: E) ps' →
      ((b.following (m.put dir) rest).withSync y').Along True Q n ps' w) :
    ((b.following m rest).withSync y).Along True Q (n + 1) ps w := by
  refine .clocked hrole rfl hb fun p ps' hb' _ hnow => ?_
  have hprev : y.sckPrev = true := hb.sckPrev rfl
  set x := (b.following m rest).withSync y with hx
  have hstep : x.clkStep p = (b.following (m.put dir) rest).withSync (x.withSync (y.shifted p none)).latchPrev.sync := by
    rw [Block.clkStep_of_fall (b := x) hrole hr hm (.inr ⟨rfl, rest, rfl⟩) hprev hnow]
    cases dir
    · rw [if_pos (by exact hoe)]; rfl
    · rw [if_neg (by rw [show x.out.dataOe = b.out.dataOe from rfl, hoe]; decide)]; rfl
  have hnone : x.takesBit (x.clkStep p) = false := by
    simp [Block.takesBit, show x.cfg.role = .responder from hrole, show x.sync.sckPrev = true from hprev]
  rw [Block.taken, hnone, if_neg (by decide), List.append_nil, hstep]
  exact h _ ps' ⟨hb'.data, hb'.sck⟩

/-- A clk cycle with a rising edge, its effect written out: `z`, whatever the synchronisers come to. -/
theorem Block.Along.rise_to (z : Block) (hrole : b.cfg.role = .responder) (hbusy : b.busy = true)
    (hb : b.sync.Brings True .responder D (false :: true :: E) ps)
    (hz : ∀ p, b.sync.sckPrev = false → lastStage (shiftChain p.sck b.sync.sck) = true →
      (b.sync.shifted p none).bit = D.getD 1 false →
      b.clkStep p = z.withSync (b.withSync (b.sync.shifted p none)).latchPrev.sync)
    (h : ∀ y ps', y.Brings True .responder D.tail (true :: E) ps' →
      (z.withSync y).Along True Q n ps' (w ++ [(z.out.dataOe, if z.out.dataOe then z.out.dataO else D.getD 1 false)])) :
    b.Along True Q (n + 1) ps w := by
  refine .clocked hrole hbusy hb fun p ps' hb' hbit hnow => ?_
  have hprev : b.sync.sckPrev = false := hb.sckPrev rfl
  have htakes : b.takesBit (b.clkStep p) = true := by
    rw [hz p hprev hnow hbit]
    simp only [Block.takesBit, hrole, hprev]
    exact hnow
  rw [Block.taken, if_pos htakes, hz p hprev hnow hbit]
  rw [← hbit] at h
  exact h _ ps' ⟨hb'.data, hb'.sck⟩

/-- A rising edge that is not the eighth takes in the bit sampled. -/
theorem Block.Along.rise (hr : b.rstN = true) (hm : b.seq.mid = false) (hrole : b.cfg.role = .responder)
    (hb : y.Brings True .responder D (false :: true :: E) ps) (hu : D.getD 1 false = u) (h7 : m.bitcnt ≠ 7#3)
    (h : ∀ y' ps', y'.Brings True .responder D.tail (true :: E) ps' →
      ((b.following (m.rose u) rest).withSync y').Along True Q n ps'
        (w ++ [(b.out.dataOe, if b.out.dataOe then m.dataO else u)])) :
    ((b.following m rest).withSync y).Along True Q (n + 1) ps w := by
  subst hu
  set x := (b.following m rest).withSync y with hx
  refine .rise_to (b := x) (b.following (m.rose (D.getD 1 false)) rest) hrole rfl hb (fun p hprev hnow hbit => ?_) h
  rw [Block.clkStep_of_rise (b := x) hrole hr hm (.inr ⟨rfl, rest, rfl⟩) hprev hnow (.inr h7), Block.engineRise_eq, ← hbit]
  simp [hx, Block.following, Moving.rose, Block.withSync, h7, Block.latchPrev, Block.hsSample]

/-- The eighth does so too, and its clk cycle goes on after the await. -/
theorem Block.Along.eighth (hr : b.rstN = true) (hrole : b.cfg.role = .responder) (hm : b.seq.mid = false)
    (hb : y.Brings True .responder D (false :: true :: E) ps) (hu : D.getD 1 false = u) (h7 : m.bitcnt = 7#3)
    (h : ∀ y' ps', y'.Brings True .responder D.tail (true :: E) ps' →
      ((b.received (m.rose u) rest).withSync y').Along True Q n ps'
        (w ++ [(b.out.dataOe, if b.out.dataOe then m.dataO else u)])) :
    ((b.following m rest).withSync y).Along True Q (n + 1) ps w := by
  subst hu
  set x := (b.following m rest).withSync y with hx
  refine .rise_to (b := x) (b.received (m.rose (D.getD 1 false)) rest) hrole rfl hb (fun p hprev hnow hbit => ?_) h
  rw [Block.clkStep_of_eighth (b := x) hrole hr hm hprev hnow h7 rfl, Block.engineRise_eq, ← hbit,
    show x.dropZero rest = b.dropZero rest from Block.dropZero_congr (fun d => by cases d <;> rfl) rest]
  simp [hx, Block.following, Block.received, Moving.rose, Block.withSync, h7, Block.latchPrev, Block.hsSample]

/-- A bit period before the last, in which the block that drives DATA sees there what it sends. -/
theorem Block.Along.bitIn (hr : b.rstN = true) (hm : b.seq.mid = false) (hrole : b.cfg.role = .responder)
    (hoe : b.out.dataOe = dir.drives) (hb : y.Brings True .responder D (true :: false :: true :: E) ps)
    (hu : D.tail.getD 1 false = u) (htaken : m.taken u dir = u) (h7 : m.bitcnt ≠ 7#3)
    (h : ∀ y' ps', y'.Brings True .responder D.tail.tail (true :: E) ps' →
      ((b.following (m.bit dir u) rest).withSync y').Along True Q n ps' (w ++ [(dir.drives, u)])) :
    ((b.following m rest).withSync y).Along True Q (n + 2) ps w := by
  refine .fall hr hm hrole hoe hb fun y1 ps1 h1 => ?_
  refine .rise hr hm hrole h1 hu (by cases dir <;> exact h7) fun y2 ps2 h2 => ?_
  rw [hoe]
  cases dir with
  | wr =>
    obtain rfl : m.sh.getLsbD 0 = u := htaken
    exact h y2 ps2 h2
  | rd => exact h y2 ps2 h2

/-- The last bit period. -/
theorem Block.Along.lastBitIn (hr : b.rstN = true) (hm : b.seq.mid = false) (hrole : b.cfg.role = .responder)
    (hoe : b.out.dataOe = dir.drives) (hb : y.Brings True .responder D (true :: false :: true :: E) ps)
    (hu : D.tail.getD 1 false = u) (htaken : m.taken u dir = u) (h7 : m.bitcnt = 7#3)
    (h : ∀ y' ps', y'.Brings True .responder D.tail.tail (true :: E) ps' →
      ((b.received (m.bit dir u) rest).withSync y').Along True Q n ps' (w ++ [(dir.drives, u)])) :
    ((b.following m rest).withSync y).Along True Q (n + 2) ps w := by
  refine .fall hr hm hrole hoe hb fun y1 ps1 h1 => ?_
  refine .eighth hr hrole hm h1 hu (by cases dir <;> exact h7) fun y2 ps2 h2 => ?_
  rw [hoe]
  cases dir with
  | wr =>
    obtain rfl : m.sh.getLsbD 0 = u := htaken
    exact h y2 ps2 h2
  | rd => exact h y2 ps2 h2

/-- A clk cycle of an armed responder with no edge. -/
theorem Block.Along.waits (hr : b.rstN = true) (hm : b.seq.mid = false) (hrole : b.cfg.role = .responder)
    (hb : y.Brings True .responder D E ps) (hquiet : E.getD 0 false = E.getD 1 false)
    (h : ∀ y' ps', y'.Brings True .responder D.tail E.tail ps' → ((b.following m rest).withSync y').Along True Q n ps' w) :
    ((b.following m rest).withSync y).Along True Q (n + 1) ps w := by
  rw [← hrole] at hb h
  exact .line_to (b.following m rest) hr hm hb (fun _ => hquiet) rfl rfl nofun (fun _ => rfl) h

/-- Several of them. -/
theorem Block.Along.waiting (hr : b.rstN = true) (hm : b.seq.mid = false) (hrole : b.cfg.role = .responder) (k : Nat) :
    ∀ {y : Sync} {D : List Level} {ps : List Pins}, y.Brings True .responder D (List.replicate (k + 1) true ++ E) ps →
      (∀ y' ps', y'.Brings True .responder (D.drop k) (true :: E) ps' →
        ((b.following m rest).withSync y').Along True Q n ps' w) →
      ((b.following m rest).withSync y).Along True Q (n + k) ps w := by
  induction k with
  | zero => exact fun hb h => h _ _ hb
  | succ k ih =>
    intro y D ps hb h
    refine .waits hr hm hrole hb rfl fun y1 ps1 h1 => ih h1 fun y2 ps2 h2 => h y2 ps2 ?_
    rwa [List.drop_tail] at h2

/-- The levels of CLK and of data_i in the bit periods that bring `us`. -/
def clkLevels (us : List Level) : List Level := us.flatMap fun _ => [false, true]

def dataLevels (us : List Level) : List Level := us.flatMap fun u => [u, u]

/-- From BITCNT = k on the edges that are left bring the byte `v`, LSB first. -/
theorem Block.Along.byte {v : Byte} (hr : b.rstN = true) (hm : b.seq.mid = false) (hrole : b.cfg.role = .responder)
    (hoe : b.out.dataOe = dir.drives) (us : List Level) :
    ∀ {m : Moving} {y : Sync} {D D' : List Level} {ps : List Pins} {w : List (Bool × Level)} {k : Nat},
      y.Brings True .responder D (true :: (clkLevels us ++ E)) ps → D.tail = dataLevels us ++ D' →
      m.bitcnt = BitVec.ofNat 3 k → us ≠ [] → k + us.length = 8 → (dir = .wr → HoldsFrom v m.sh k) →
      (∀ j < us.length, us.getD j false = v.getLsbD (k + j)) →
      (∀ y' ps', y'.Brings True .responder (D.drop (2 * us.length)) (true :: E) ps' →
        ((b.received (m.bits dir us) rest).withSync y').Along True Q n ps' (w ++ us.map fun u => (dir.drives, u))) →
      ((b.following m rest).withSync y).Along True Q (n + 2 * us.length) ps w := by
  induction us with
  | nil => exact fun _ _ _ hne => absurd rfl hne
  | cons u us ih =>
    intro m y D D' ps w k hb hD hcnt _ hlen hsh hus h
    rw [List.length_cons] at hlen hus h ⊢
    have hu : u = v.getLsbD k := by simpa using hus 0 (by omega)
    have htaken : m.taken u dir = u := by
      cases dir with
      | wr => exact ((hsh rfl).bit (by omega)).trans hu.symm
      | rd => rfl
    have hone : D.tail.getD 1 false = u := by rw [hD]; rfl
    rw [Nat.mul_succ, ← Nat.add_assoc]
    cases us with
    | nil =>
      rw [List.length_nil] at hlen
      refine .lastBitIn hr hm hrole hoe hb hone htaken (hcnt.trans (by rw [show k = 7 by omega])) fun y1 ps1 h1 => ?_
      exact h y1 ps1 (by rwa [← List.drop_one, ← List.drop_one, List.drop_drop] at h1)
    | cons u' us =>
      rw [List.length_cons] at hlen
      refine .bitIn hr hm hrole hoe hb hone htaken (hcnt ▸ bitcnt_ne_seven (by omega)) fun y1 ps1 h1 => ?_
      refine ih (k := k + 1) (D' := D') h1 (by rw [hD]; rfl) ?_ (List.cons_ne_nil _ _) ?_ (fun hdir => ?_) (fun j hj => ?_)
        fun y2 ps2 h2 => ?_
      · rw [Moving.bit, hcnt, BitVec.ofNat_add]
      · rw [List.length_cons]; omega
      · exact (hsh hdir).shiftIn _
      · rw [show k + 1 + j = k + (j + 1) by omega, ← hus (j + 1) (by rw [List.length_cons] at hj ⊢; omega)]; rfl
      · rw [List.append_assoc]
        exact h y2 ps2 (by simpa [Nat.mul_succ] using h2)

/-! ## The rest of the last edge's cycle -/

/-- A step that shifts no synchroniser passes over a pin of the schedule; while CLK stands high no level of it is missed. -/
theorem Sync.Brings.skip {role : Role} {p : Pins} {k : Nat}
    (h : y.Brings True role D (List.replicate (k + 1) true) (p :: ps)) :
    ∃ D', y.Brings True role D' (List.replicate k true) ps := by
  refine ⟨_, fun _ => ⟨(h.data trivial).1, rfl⟩, fun hrole => ?_⟩
  obtain ⟨-, hne, hprev, hE⟩ := h.sck hrole
  obtain ⟨hlen, hall⟩ := List.eq_replicate_iff.mp hE
  refine ⟨trivial, hne, hprev, List.eq_replicate_iff.mpr ⟨?_, fun v hv => hall v ?_⟩⟩
  · simpa [← Nat.add_assoc] using hlen
  · simp only [List.map_cons, List.mem_append, List.mem_cons] at hv ⊢
    exact hv.imp_right .inr

/-- A mid-cycle step of a responder, its effect written out, while CLK stands high. -/
theorem Block.Along.midStep (z : Block) {k : Nat} (hrole : b.cfg.role = .responder) (hbusy : b.busy = true)
    (hb : b.sync.Brings True .responder D (List.replicate (k + 1) true) ps) (hz : ∀ p, b.clkStep p = z)
    (hs : z.sync = b.sync)
    (h : ∀ D' ps', b.sync.Brings True .responder D' (List.replicate k true) ps' → z.Along True Q n ps' w) :
    b.Along True Q (n + 1) ps w := by
  cases ps with
  | nil => trivial
  | cons p ps =>
    refine ⟨hbusy, fun q slip halone => ?_⟩
    obtain ⟨rfl, rfl⟩ := halone trivial
    obtain ⟨D', hb'⟩ := hb.skip
    have hnone : b.takesBit (b.clkStep q) = false := by simp [Block.takesBit, hrole, hz, hs]
    rw [Block.taken, hnone, if_neg (by decide), List.append_nil, hz]
    exact h D' ps hb'

/-- AwaitByte() takes BYTE_DONE back. -/
theorem Block.Along.takeDone {used : Bool} {k : Nat} (hr : b.rstN = true) (hrole : b.cfg.role = .responder)
    (hm : b.seq.mid = true) (hp : b.seq.prog = .run (.takeDone used :: rest))
    (hb : b.sync.Brings True .responder D (List.replicate (k + 1) true) ps)
    (h : ∀ D' ps', b.sync.Brings True .responder D' (List.replicate k true) ps' →
      ({ b with xp.byteDone := false, seq.prog := .run (b.dropZero rest), seq.mid := used } : Block).Along True Q n ps' w) :
    b.Along True Q (n + 1) ps w :=
  .midStep _ hrole (by simp [Block.busy, hp]) hb (Block.clkStep_takeDone hr hm hp) rfl h

/-- b <- AwaitByte() takes the byte. -/
theorem Block.Along.takeSh {k : Nat} (hr : b.rstN = true) (hrole : b.cfg.role = .responder) (hm : b.seq.mid = true)
    (hp : b.seq.prog = .run (.takeSh :: rest))
    (hb : b.sync.Brings True .responder D (List.replicate (k + 1) true) ps)
    (h : ∀ D' ps', b.sync.Brings True .responder D' (List.replicate k true) ps' →
      ({ b with seq.prog := .run (b.dropZero rest), seq.locs.b := b.xp.sh, seq.mid := false } : Block).Along True Q n ps' w) :
    b.Along True Q (n + 1) ps w :=
  .midStep _ hrole (by simp [Block.busy, hp]) hb (Block.clkStep_takeSh_mid hr hm hp) rfl h

end

/-! ## The operations -/

/-- An operation of a block alone that ends along the schedule, and the block's wire in it. -/
theorem exec_run_wire {s : State} {i : Instr} {b : Block} {ps : List Pins} {n : Nat}
    {Q : List (Bool × Level) → Block → Prop} (h : s.aloneFor i b) (henv : s.env = clks .near ps)
    (hrun : (b.accept i (programOf b.cfg i)).Along True (fun _ w z => z.busy = false ∧ Q w z) n ps []) (hn : n ≤ ps.length) :
    ∃ t, exec i s = .next t ∧ Q ((b.submit i (programOf b.cfg i)).wire ps) t.near := by
  obtain ⟨t, hexec, hnear⟩ := exec_alone h henv
  obtain ⟨-, -, ⟨-, -, hidle⟩, hcheck⟩ := h
  obtain ⟨ps', w', b', ⟨hdone, hQ⟩, hrest, hwire⟩ := hrun.run_wire hn
  rw [hrest, Block.runPins_idle ps' hdone] at hnear
  rw [Block.wire_idle ps' hdone, List.append_nil, List.nil_append] at hwire
  refine ⟨t, hexec, ?_⟩
  rw [Block.submit_of_ok _ hidle hcheck, hwire, hnear]
  exact hQ

/-- The bits of a byte, LSB first. -/
def byteLevels (v : Byte) : List Level := (List.range 8).map v.getLsbD

theorem byteLevels_getD (v : Byte) : ∀ j < (byteLevels v).length, (byteLevels v).getD j false = v.getLsbD (0 + j) := by
  intro j hj
  have hj8 : j < 8 := by simpa [byteLevels] using hj
  simp [byteLevels, hj8]

theorem wireBytes_singleton (driven : Bool) (v : Byte) : wireBytes driven [v] = (byteLevels v).map fun u => (driven, u) := by
  simp [wireBytes, byteLevels]

/-- A schedule that brings the byte `v` between `lead` and `trail` cycles in which the clock stands high. -/
def bringing (lead : Nat) (v : Byte) (trail : Nat) : List Pins :=
  List.replicate lead ⟨true, true, true⟩ ++
    ((byteLevels v).flatMap (fun u => [⟨true, u, false⟩, ⟨true, u, true⟩]) ++ List.replicate trail ⟨true, true, true⟩)

theorem bringing_length (lead : Nat) (v : Byte) (trail : Nat) : (bringing lead v trail).length = lead + 16 + trail := by
  simp [bringing, byteLevels, List.range_succ]
  omega

theorem bringing_sck (lead : Nat) (v : Byte) (trail : Nat) : (bringing lead v trail).map Pins.sck =
    List.replicate lead true ++ (clkLevels (byteLevels v) ++ List.replicate trail true) := by
  simp [bringing, clkLevels, List.map_flatMap]

theorem bringing_data (lead : Nat) (v : Byte) (trail : Nat) : (bringing lead v trail).map Pins.data =
    List.replicate lead true ++ (dataLevels (byteLevels v) ++ List.replicate trail true) := by
  simp [bringing, dataLevels, List.map_flatMap]

/-- What such a schedule brings to a block whose clock is quiet, and where its bits are. -/
theorem Block.clockQuiet.brings_byte {b : Block} {k : Nat} (hquiet : b.clockQuiet) (hinv : b.Inv)
    (hrole : b.cfg.role = .responder) (hk : b.cfg.syncStages = k + 1) (lead : Nat) (v : Byte) (trail : Nat) :
    b.sync.Brings True .responder (b.dataStream (bringing lead v trail))
        (List.replicate (k + 1 + lead) true ++ (clkLevels (byteLevels v) ++ List.replicate trail true))
        (bringing lead v trail) ∧
      (b.dataStream (bringing lead v trail)).drop (lead + (k + 1)) =
        dataLevels (byteLevels v) ++ List.replicate trail true := by
  have hchain : b.sync.sck.reverse = List.replicate (k + 1) true :=
    List.eq_replicate_iff.mpr ⟨by simp [hinv.sckStages, hk], fun v hv => hquiet.2 v (List.mem_reverse.mp hv)⟩
  constructor
  · have hb := hinv.brings (bringing lead v trail) (alone := True) fun _ => trivial
    rwa [hchain, bringing_sck, hrole, ← List.append_assoc, List.replicate_append_replicate] at hb
  · rw [Block.dataStream, bringing_data, ← List.append_assoc]
    exact List.drop_left' (by simp [hinv.dataStages, hk]; omega)

/-- An armed responder alone, its clock quiet: the byte `v` that the schedule brings. -/
theorem Block.Along.byteArrives {Q : List Pins → List (Bool × Level) → Block → Prop} {D D0 : List Level} {ps : List Pins}
    {w : List (Bool × Level)} {b : Block} {rest : List Line} {n k trail : Nat} {dir : Dir} {m : Moving} {y : Sync} {v : Byte}
    (hr : b.rstN = true) (hm : b.seq.mid = false) (hrole : b.cfg.role = .responder) (hoe : b.out.dataOe = dir.drives)
    (hb : y.Brings True .responder D
      (List.replicate (k + 1) true ++ (clkLevels (byteLevels v) ++ List.replicate trail true)) ps)
    (hD : D.drop (k + 1) = dataLevels (byteLevels v) ++ D0) (hcnt : m.bitcnt = 0#3) (hsh : dir = .wr → m.sh = v)
    (h : ∀ D' y' ps', y'.Brings True .responder D' (List.replicate (trail + 1) true) ps' →
      ((b.received (m.bits dir (byteLevels v)) rest).withSync y').Along True Q n ps' (w ++ wireBytes dir.drives [v])) :
    ((b.following m rest).withSync y).Along True Q (n + 16 + k) ps w := by
  refine .waiting hr hm hrole k hb fun y1 ps1 h1 => ?_
  refine .byte (v := v) (k := 0) hr hm hrole hoe (byteLevels v) h1 ((List.tail_drop ..).trans hD) hcnt nofun rfl
    (fun hdir j _ => ?_) (byteLevels_getD v) fun y2 ps2 h2 => ?_
  · rw [hsh hdir, Nat.zero_add]
  · rw [← wireBytes_singleton]
    exact h _ y2 ps2 h2

/-! ## The opening lines -/

section
variable {Q : List Pins → List (Bool × Level) → Block → Prop} {D E : List Level} {ps : List Pins}
variable {w : List (Bool × Level)} {b : Block} {rest : List Line} {n k : Nat} {y : Sync}

/-- Arm of a byte to read (40_transport.md R175). -/
theorem Block.Along.armRead (hr : b.rstN = true) (hm : b.seq.mid = false) (hrole : b.cfg.role = .responder)
    (hb : y.Brings True .responder D (List.replicate (k + 3) true ++ E) ps)
    (hp : b.seq.prog = .run (armLines .rd .locB ++ .awaitByte :: rest))
    (h : ∀ y' ps', y'.Brings True .responder (D.drop 2) (List.replicate (k + 1) true ++ E) ps' →
      ((b.following b.move rest).withSync y').Along True Q n ps' w) :
    (b.withSync y).Along True Q (n + 2) ps w := by
  rw [← hrole] at hb h
  refine .line_to { b with xp.byteDone := false, seq.prog := .run (.arm :: .awaitByte :: rest) } hr hm hb (fun _ => rfl) hp rfl
    nofun (fun _ => rfl) fun y1 ps1 h1 => ?_
  refine .line_to (b.following b.move rest) hr hm h1 (fun _ => rfl) rfl rfl nofun (fun _ => rfl) fun y2 ps2 h2 => ?_
  simp only [← List.drop_one, List.drop_drop] at h2
  exact h y2 ps2 h2

/-- Arm of the byte b to write: DATA is taken and bit 0 driven. -/
theorem Block.Along.armWrite (hr : b.rstN = true) (hm : b.seq.mid = false) (hrole : b.cfg.role = .responder)
    (hb : y.Brings True .responder D (List.replicate (k + 6) true ++ E) ps)
    (hp : b.seq.prog = .run (armLines .wr .locB ++ .awaitByte :: rest))
    (h : ∀ y' ps', y'.Brings True .responder (D.drop 5) (List.replicate (k + 1) true ++ E) ps' →
      ((b.owning.following { b.move with sh := b.seq.locs.b, dataO := b.seq.locs.b.getLsbD 0 } rest).withSync y').Along
        True Q n ps' w) :
    (b.withSync y).Along True Q (n + 5) ps w := by
  rw [← hrole] at hb h
  refine .line_to { b with
    xp.byteDone := false
    seq.prog := .run (.armSh .locB :: .driveOe true :: .driveBit0 .locB :: .arm :: .awaitByte :: rest) } hr hm hb
    (fun _ => rfl) hp rfl nofun (fun _ => rfl) fun y1 ps1 h1 => ?_
  refine .line_to { b with
    xp.byteDone := false
    xp.sh := b.seq.locs.b
    seq.prog := .run (.driveOe true :: .driveBit0 .locB :: .arm :: .awaitByte :: rest) } hr hm h1 (fun _ => rfl) rfl rfl nofun
    (fun _ => rfl) fun y2 ps2 h2 => ?_
  refine .line_to { b.owning with
    xp.byteDone := false
    xp.sh := b.seq.locs.b
    seq.prog := .run (.driveBit0 .locB :: .arm :: .awaitByte :: rest) } hr hm h2 (fun _ => rfl) rfl rfl nofun (fun _ => rfl)
    fun y3 ps3 h3 => ?_
  refine .line_to { b.owning with
    xp.byteDone := false
    xp.sh := b.seq.locs.b
    out.dataO := b.seq.locs.b.getLsbD 0
    seq.prog := .run (.arm :: .awaitByte :: rest) } hr hm h3 (fun _ => rfl) rfl rfl nofun (fun _ => rfl) fun y4 ps4 h4 => ?_
  refine .line_to (b.owning.following { b.move with sh := b.seq.locs.b, dataO := b.seq.locs.b.getLsbD 0 } rest) hr hm h4
    (fun _ => rfl) rfl rfl nofun (fun _ => rfl) fun y5 ps5 h5 => ?_
  simp only [← List.drop_one, List.drop_drop] at h5
  exact h y5 ps5 h5

end

/-- READ_BYTE with a schedule that brings it `v`: Arm, the byte, the two steps that end its cycle, three lines. -/
theorem responderReadByteCompletes (arg : Half) (lvl : Bool) (s : State) (b : Block) (hinv : b.Inv)
    (hrole : b.cfg.role = .responder) (hquiet : b.clockQuiet) (hcnt : b.xp.bitcnt = 0#3)
    (h : s.aloneFor (.readByte arg lvl) b) (v : Byte) : ∃ ps t,
      exec (.readByte arg lvl) { s with env := clks .near ps } = .next t ∧
      t.near.finishedWith ⟨.ok, false, false, 1#16⟩ 0x02#5 ∧ t.near.regs.data = v ∧
      t.near.xp.bitcnt = 0#3 ∧ t.near.out.dataOe = false ∧
      (b.submit (.readByte arg lvl) (readByteProg b.cfg.role)).wire ps = wireBytes false [v] := by
  obtain ⟨-, -, ⟨-, hr, -⟩, hcheck⟩ := id h
  obtain ⟨k, hk⟩ := hinv.syncStages_eq_add_one
  have hoe : b.out.dataOe = false := by
    simpa [needsRelease] using ((b.check_ok_iff (.readByte arg lvl)).mp hcheck).2
  refine ⟨bringing 2 v (k + 5), exec_run_wire (s := { s with env := clks .near (bringing 2 v (k + 5)) })
    (i := .readByte arg lvl) (b := b)
    (Q := fun w z => z.finishedWith ⟨.ok, false, false, 1#16⟩ 0x02#5 ∧ z.regs.data = v ∧ z.xp.bitcnt = 0#3 ∧
      z.out.dataOe = false ∧ w = wireBytes false [v]) (n := 5 + 16 + k + 2) h rfl ?_ ?_⟩
  rotate_left
  · rw [bringing_length]; omega
  obtain ⟨hb, hD⟩ := hquiet.brings_byte hinv hrole hk 2 v (k + 5)
  set D := b.dataStream (bringing 2 v (k + 5))
  rw [show programOf b.cfg (.readByte arg lvl) = readByteProg .responder by rw [programOf, hrole]]
  set a := b.accept (.readByte arg lvl) (readByteProg .responder)
  set rest : List Line := [.takeDone true, .takeSh, .writeData, .count 1, .finish .ok]
  refine .armRead (b := a) (y := b.sync) (rest := rest) hr rfl hrole hb rfl fun y1 ps1 h1 => ?_
  refine .byteArrives (b := a) (dir := .rd) (v := v) (trail := k + 5) hr rfl hrole hoe h1 (by rwa [List.drop_drop]) hcnt
    nofun fun D2 y2 ps2 h2 => ?_
  set m := a.move.bits .rd (byteLevels v)
  refine .takeDone hr hrole rfl rfl h2 fun D3 ps3 h3 => ?_
  refine .takeSh hr hrole rfl rfl h3 fun D4 ps4 h4 => ?_
  refine .line (l := .writeData) hr rfl (hrole.symm ▸ h4) (fun _ => rfl) rfl rfl nofun fun y5 ps5 h5 => ?_
  obtain ⟨-, -, hcnt'⟩ := Moving.bits_eight (dir := .rd) (us := byteLevels v) a.move rfl
  have hsh : m.sh = v := ((Moving.bits_rd (m := a.move) (k := 0) (f := v.getLsbD) (byteLevels v) (.zero _ _) le_rfl
    (byteLevels_getD v)).1).eq_of_eight
  refine .count_finish hr rfl h5 (fun _ => ⟨rfl, rfl⟩) rfl rfl (b.event_accept (.readByte arg lvl) (readByteProg .responder)).1
    fun z hdone hout hxp hdata => ⟨hdone, hdata.trans hsh, ?_, ?_, rfl⟩
  · rw [hxp]; exact hcnt'.trans hcnt
  · rw [hout]; exact hoe

/-- WRITE_BYTE with a schedule that brings back the byte it sends: two lines, Arm, the byte, the step that ends its cycle,
two lines. -/
theorem responderWriteByteCompletes (arg : Half) (lvl : Bool) (s : State) (b : Block) (hinv : b.Inv)
    (hrole : b.cfg.role = .responder) (hquiet : b.clockQuiet) (hcnt : b.xp.bitcnt = 0#3)
    (h : s.aloneFor (.writeByte arg lvl) b) : ∃ ps t,
      exec (.writeByte arg lvl) { s with env := clks .near ps } = .next t ∧
      t.near.finishedWith ⟨.ok, false, false, 1#16⟩ 0x01#5 ∧ t.near.regs.data = b.regs.data ∧
      t.near.out.dataOe = true ∧ t.near.out.dataO = b.regs.data.getLsbD 7 ∧
      (b.submit (.writeByte arg lvl) (writeByteProg b.cfg.role)).wire ps = wireBytes true [b.regs.data] := by
  obtain ⟨-, -, ⟨-, hr, -⟩, -⟩ := id h
  obtain ⟨k, hk⟩ := hinv.syncStages_eq_add_one
  set v := b.regs.data
  refine ⟨bringing 7 v (k + 3), exec_run_wire (s := { s with env := clks .near (bringing 7 v (k + 3)) })
    (i := .writeByte arg lvl) (b := b)
    (Q := fun w z => z.finishedWith ⟨.ok, false, false, 1#16⟩ 0x01#5 ∧ z.regs.data = v ∧ z.out.dataOe = true ∧
      z.out.dataO = v.getLsbD 7 ∧ w = wireBytes true [v])
    (n := 3 + 16 + k + 5 + 2) h rfl ?_ ?_⟩
  rotate_left
  · rw [bringing_length]; omega
  obtain ⟨hb, hD⟩ := hquiet.brings_byte hinv hrole hk 7 v (k + 3)
  set D := b.dataStream (bringing 7 v (k + 3))
  rw [show programOf b.cfg (.writeByte arg lvl) = writeByteProg .responder by rw [programOf, hrole]]
  set a := b.accept (.writeByte arg lvl) (writeByteProg .responder)
  set rest : List Line := [.takeDone false, .count 1, .finish .ok]
  refine .line_to (b := a) { a.holding v with seq.prog := .run (.driveOe true :: armLines .wr .locB ++ .awaitByte :: rest) }
    hr rfl (hrole.symm ▸ hb) (fun _ => rfl) rfl rfl nofun (fun _ => rfl) fun y1 ps1 h1 => ?_
  refine .line_to { a.sending with seq.prog := .run (armLines .wr .locB ++ .awaitByte :: rest) } hr rfl h1 (fun _ => rfl) rfl
    rfl nofun (fun _ => rfl) fun y2 ps2 h2 => ?_
  refine .armWrite (b := { a.sending with seq.prog := .run (armLines .wr .locB ++ .awaitByte :: rest) }) hr rfl hrole
    (hrole ▸ h2) rfl fun y3 ps3 h3 => ?_
  set m : Moving := { a.move with sh := v, dataO := v.getLsbD 0 }
  refine .byteArrives (b := a.sending) (dir := .wr) (m := m) (v := v) (trail := k + 3) hr rfl hrole rfl h3
    (by rwa [List.drop_tail, List.drop_tail, List.drop_drop]) hcnt (fun _ => rfl) fun D4 y4 ps4 h4 => ?_
  refine .takeDone hr hrole rfl rfl h4 fun D5 ps5 h5 => ?_
  refine .count_finish hr rfl (hrole.symm ▸ h5) (fun _ => ⟨rfl, rfl⟩) rfl rfl
    (b.event_accept (.writeByte arg lvl) (writeByteProg .responder)).1 fun z hdone hout hxp hdata => ⟨hdone, hdata, ?_, ?_, rfl⟩
  · rw [hout]; rfl
  · rw [hout]
    exact Moving.dataO_bits_wr (m := m) (k := 0) (byteLevels v) (fun j _ => by rw [Nat.zero_add]) nofun rfl

/-- Settles O35: each operation with a schedule that brings it its byte. -/
theorem responderByteOperationsComplete : Obligations.ResponderByteOperationsComplete := by
  unfold Obligations.ResponderByteOperationsComplete
  exact fun arg lvl s b hinv hrole hquiet hcnt => ⟨responderReadByteCompletes arg lvl s b hinv hrole hquiet hcnt,
    responderWriteByteCompletes arg lvl s b hinv hrole hquiet hcnt⟩

end Sys2Proof.Machine
end

section
/-! SUPPORT. The handshake and timing operations (41_handshake.md R214, R230 to R236): an accepted command's result stays
clear while the operation waits, and the line that finishes it completes it with OK. -/

namespace Sys2Proof.Machine

/-! ## A result still clear -/

/-- The command of OP `op` has written nothing of its result since acceptance: RESULT is 0, ERR is clear and STATUS.OP
names the command (30_encoding.md R124). -/
structure Block.Fresh (op : BitVec 5) (b : Block) : Prop where
  result : b.regs.result = .zero
  statusOp : b.regs.statusOp = op
  err : b.event .err = false

theorem Block.fresh_accept (b : Block) (i : Instr) (prog : List Line) : (b.accept i prog).Fresh i.opcode :=
  ⟨rfl, rfl, (b.event_accept i prog).1⟩

section
variable {op : BitVec 5} {b : Block} {l : Line} {rest : List Line}

/-- The start of a clk cycle writes nothing of it. -/
theorem Block.Fresh.begun (h : b.Fresh op) (p : Pins) (slip : Option Level) : (b.begun p slip).Fresh op := by
  obtain ⟨hres, hop, herr⟩ := b.begun_regs p slip
  exact ⟨hres.trans h.result, hop.trans h.statusOp, herr.trans h.err⟩

theorem Block.Fresh.congr {y : Block} (h : b.Fresh op) (hregs : y.regs = b.regs) : y.Fresh op :=
  ⟨by rw [hregs, h.result], by rw [hregs, h.statusOp], by rw [Block.event, hregs]; exact h.err⟩

/-- A cycle whose line writes no register leaves the result clear. -/
theorem Block.Fresh.clkStep (h : b.Fresh op) (p : Pins) (slip : Option Level) (hr : b.rstN = true)
    (hm : b.seq.mid = false) (hp : b.seq.prog = .run (l :: rest)) (hf : (b.begun p slip).flows l = false)
    (hl : ((b.begun p slip).runLine l rest).regs = (b.begun p slip).regs) : (b.clkStep p slip).Fresh op := by
  rw [Block.clkStep_line p slip hr hm hp hf]
  exact (h.begun p slip).congr hl

/-- A cycle whose line drives the outputs as `out` says and finishes completes the operation with OK. -/
theorem Block.Fresh.clkStep_finish {out : Outputs} (h : b.Fresh op) (p : Pins) (slip : Option Level) (hr : b.rstN = true)
    (hm : b.seq.mid = false) (hp : b.seq.prog = .run (l :: rest)) (hf : (b.begun p slip).flows l = false)
    (hl : (b.begun p slip).runLine l rest = ({ b.begun p slip with out := out } : Block).finish .ok) :
    (b.clkStep p slip).finishedWith ⟨.ok, false, false, 0#16⟩ op ∧ (b.clkStep p slip).out = out := by
  have hx := h.begun p slip
  rw [Block.clkStep_line p slip hr hm hp hf, hl]
  have hdone := Block.finishedWith_finish (x := { b.begun p slip with out := out }) hx.result hx.err
  rw [show ({ b.begun p slip with out := out } : Block).regs.statusOp = op from hx.statusOp] at hdone
  exact ⟨hdone, by simp⟩

end

/-! ## Operations that end after a number of steps of their block's clock -/

/-- Steps with any pins and draws are steps along every schedule. -/
theorem Block.After.along {alone : Prop} {Q : Block → Prop} {n : Nat} : ∀ {b : Block} {ps : List Pins}
    {w : List (Bool × Level)}, b.After n Q → b.Along alone (fun _ _ x => Q x) n ps w := by
  induction n with
  | zero => exact fun h => h
  | succ n ih =>
    intro b ps w h
    cases ps with
    | nil => trivial
    | cons p ps => exact ⟨h.1, fun q slip _ => ih (h.2 q slip)⟩

/-- An accepted operation that ends with the steps scheduled for its block's clock leaves the rest of the schedule. -/
theorem exec_after {s : State} {i : Instr} {b : Block} {ps : List Pins} {es : List Event} {Q : Block → Prop}
    (h : s.readyFor i b) (henv : s.env = clks s.port ps ++ es)
    (hrun : (b.accept i (programOf b.cfg i)).After ps.length fun x => x.busy = false ∧ Q x) :
    ∃ t b', exec i s = .next t ∧ t.env = es ∧ t.get s.port = some b' ∧ Q b' :=
  exec_along h henv hrun.along

/-! ## NOP and HS_DRIVE -/

/-- An operation of one line, which drives the outputs as `out` says and finishes, completes in the first clk cycle; `x` is
the block as its line finds it. -/
theorem exec_finishLine {s : State} {i : Instr} {b : Block} {p : Pins} {es : List Event} {l : Line} (out : Block → Outputs)
    (h : s.readyFor i b) (henv : s.env = clks s.port [p] ++ es) (hprog : programOf b.cfg i = [l])
    (hl : ∀ x : Block, x.dropZero [l] = [l] ∧ x.flows l = false ∧
      x.runLine l [] = ({ x with out := out x } : Block).finish .ok) :
    ∃ t b', exec i s = .next t ∧ t.env = es ∧ t.get s.port = some b' ∧
      b'.finishedWith ⟨.ok, false, false, 0#16⟩ i.opcode ∧
      ∃ x, b'.out = out x ∧ x.seq.lvlv = i.lvl ∧ b.out.sameDrive x.out := by
  obtain ⟨⟨-, hr, -⟩, -⟩ := id h
  refine exec_after h henv ⟨rfl, fun q slip => ?_⟩
  rw [hprog]
  set a := b.accept i [l]
  have hp : a.seq.prog = .run [l] := by rw [← (hl a).1]; exact Block.goto_prog _ _
  obtain ⟨-, hseq, -, hdrive⟩ := a.begun_keeps q slip
  obtain ⟨-, hflow, hline⟩ := hl (a.begun q slip)
  obtain ⟨hdone, hout⟩ := (b.fresh_accept i [l]).clkStep_finish q slip hr rfl hp hflow hline
  exact ⟨hdone.1, hdone, a.begun q slip, hout, congrArg Seq.lvlv hseq, hdrive⟩

/-- Settles O25: the one line of NOP finishes and drives nothing. -/
theorem nopCompletes : Obligations.NopCompletes := by
  unfold Obligations.NopCompletes
  intro arg lvl s b p es h henv
  obtain ⟨t, b', hexec, hrest, hget, hdone, x, hout, -, hdrive⟩ :=
    exec_finishLine Block.out h henv rfl fun _ => ⟨rfl, rfl, rfl⟩
  exact ⟨t, b', hexec, hrest, hget, hdone, hout ▸ hdrive⟩

/-- Settles O26: the one line of HS_DRIVE drives hs_o to the latched LVL and finishes. -/
theorem hsDriveCompletes : Obligations.HsDriveCompletes := by
  unfold Obligations.HsDriveCompletes
  intro arg lvl s b p es h henv
  obtain ⟨t, b', hexec, hrest, hget, hdone, x, hout, hlvl, -, hsck, hoe⟩ :=
    exec_finishLine (fun x => { x.out with hsO := x.seq.lvlv }) h henv rfl fun _ => ⟨rfl, rfl, rfl⟩
  exact ⟨t, b', hexec, hrest, hget, hdone, by rw [hout]; exact ⟨hlvl, hsck, hoe⟩⟩

/-! ## DELAY -/

/-- A delay's line writes no register. -/
theorem Block.regs_delayCycle (b : Block) (t : Half) (stay rest : List Line) :
    (b.delayCycle t stay rest).regs = b.regs := by
  obtain ⟨tmr, prog, he⟩ := b.delayCycle_eq t stay rest
  rw [he]

/-- `n` cycles of a delay with `m` more to go: the result stays clear, and nothing is driven. -/
theorem Block.Delaying.after {d : Delay} {rest : List Line} {op : BitVec 5} {m : Nat} (n : Nat) : ∀ {b : Block},
    b.Delaying d rest (n + m) → b.rstN = true → b.seq.mid = false → b.Fresh op →
    b.After n fun x => x.Delaying d rest m ∧ x.Fresh op ∧ x.standing = b.standing ∧ b.out.sameDrive x.out := by
  induction n with
  | zero => exact fun h _ _ hfresh => ⟨Nat.zero_add m ▸ h, hfresh, rfl, rfl, rfl, rfl⟩
  | succ n ih =>
    intro b h hr hm hfresh
    rw [Nat.succ_add] at h
    refine ⟨h.busy, fun p slip => ?_⟩
    obtain ⟨hdel, hst, hdrive⟩ := h.clkStep p slip hr hm
    have hp : b.seq.prog = .run (.delay d :: rest) := by cases h with | going hp => exact hp
    have hfresh' := hfresh.clkStep p slip hr hm hp rfl (Block.regs_delayCycle _ _ _ _)
    exact (ih hdel ((Block.rstN_of_standing hst).trans hr) ((Block.mid_of_standing hst).trans hm) hfresh').trans
      (m := 0) fun x ⟨hdel', hx, hst', hdrive'⟩ => ⟨hdel', hx, hst'.trans hst, hdrive.trans hdrive'⟩

/-- DELAY after acceptance is at the first cycle of its delay, which ARG counts. -/
theorem Block.delaying_accept {b : Block} (hinv : b.Inv) (hb : b.busy = false) (arg : Half) (lvl : Bool) :
    (b.accept (.delay arg lvl) delayProg).Delaying .argv [.finish .ok] (b.delayCycles arg) :=
  Block.delaying_of_prog (hinv.tmr_of_idle hb) (Block.goto_prog _ _)

/-- Settles O27: the cycles of the delay and then the line that finishes; or fewer cycles, with the delay still going. -/
theorem delayHoldsThenCompletes : Obligations.DelayHoldsThenCompletes := by
  unfold Obligations.DelayHoldsThenCompletes
  intro arg lvl s b ps es h hinv henv
  obtain ⟨⟨-, hr, hb⟩, -⟩ := id h
  have hstart := Block.delaying_accept hinv hb arg lvl
  have hfresh := b.fresh_accept (.delay arg lvl) delayProg
  refine ⟨fun hlen => exec_after h henv ?_, fun hlen hes => ?_⟩
  · rw [hlen]
    refine (hstart.after (m := 0) (b.delayCycles arg) hr rfl hfresh).trans
      fun x ⟨hdel, hx, hst, hdrive⟩ => ⟨hdel.busy, fun p slip => ?_⟩
    cases hdel with | past hp =>
    obtain ⟨hdone, hout⟩ := hx.clkStep_finish (l := .finish .ok) (rest := []) p slip
      ((Block.rstN_of_standing hst).trans hr) (Block.mid_of_standing hst) hp rfl rfl
    exact ⟨hdone.1, hdone, hdrive.trans (hout ▸ (x.begun_keeps p slip).2.2.2)⟩
  · rw [hes, List.append_nil] at henv
    obtain ⟨m, hm⟩ : ∃ m, b.delayCycles arg = ps.length + (m + 1) := ⟨b.delayCycles arg - ps.length - 1, by omega⟩
    rw [hm] at hstart
    obtain ⟨t, b', hexec, hget, hdel, -, hst, hdrive⟩ := exec_clks h henv (hstart.after ps.length hr rfl hfresh)
    obtain ⟨-, -, -, hop⟩ := Block.unfinished_of_standing hst
    refine ⟨t, b', hexec, hget, hdel.busy, ?_, hdrive⟩
    cases hdel with | going hp =>
    exact Block.wstate_of_prog hp (by simp [hop, Instr.opcode])

/-! ## The four waits -/

/-- A cycle of a delay before an await, or of the await while it goes on waiting, leaves the result clear. -/
theorem Block.Fresh.clkStep_unmet {b : Block} {d : Delay} {w : Line} {rest : List Line} {n : Nat} {op : BitVec 5}
    (h : b.Fresh op) (hdel : b.Delaying d (w :: rest) n) (p : Pins) (ps : List Pins) (hr : b.rstN = true)
    (hm : b.seq.mid = false) (hs : b.hsTracked)
    (hw : n = 0 → w.unmet b.cfg ((b.hsStream (p :: ps)).getD 0 false) ((b.hsStream (p :: ps)).getD 1 false)) :
    (b.clkStep p).Fresh op := by
  cases hdel with
  | going hp => exact h.clkStep p none hr hm hp rfl (Block.regs_delayCycle _ _ _ _)
  | past hp =>
    obtain ⟨hst, -, -, -⟩ := b.begun_keeps p none
    obtain ⟨hprev, hnow⟩ := Block.begun_hsStream p none ps hs
    have hw := hw rfl
    rw [← hprev, ← hnow, ← Block.cfg_of_standing hst] at hw
    obtain ⟨hrun, hflow, hdrop⟩ := Block.runLine_unmet rest hw
    rw [← Block.dropZero_of_standing hst, hdrop] at hp
    exact h.clkStep p none hr hm hp hflow (congrArg Block.regs hrun)

/-- The run of a block alone from the delay before a WAIT_* operation's await, where the stream of hs_i makes the awaited
change m cycles on and not earlier once the delay is over: it ends with that cycle (41_handshake.md R212, R213). -/
theorem Block.Delaying.runPins_met {d : Delay} {k : Wait} {op : BitVec 5} (ps : List Pins) : ∀ {b : Block} {n m : Nat},
    b.Delaying d [.waitFinish k] n → b.rstN = true → b.seq.mid = false → b.hsTracked → b.Fresh op → n ≤ m →
    m < ps.length → k.seen ((b.hsStream ps).getD m false) ((b.hsStream ps).getD (m + 1) false) →
    (∀ j, n ≤ j → j < m → ¬ k.seen ((b.hsStream ps).getD j false) ((b.hsStream ps).getD (j + 1) false)) →
    (b.runPins ps).2 = ps.drop (m + 1) ∧ (b.runPins ps).1.finishedWith ⟨.ok, false, false, 0#16⟩ op ∧
      b.out.sameDrive (b.runPins ps).1.out := by
  induction ps with
  | nil => exact fun _ _ _ _ _ _ hm _ _ => absurd hm (Nat.not_lt_zero _)
  | cons p ps ih =>
    intro b n m h hr hmid hs hfresh hnm hm hseen hnot
    rw [Block.runPins_busy p ps h.busy]
    cases m with
    | zero =>
      obtain rfl : n = 0 := Nat.le_zero.mp hnm
      cases h with | past hp =>
      obtain ⟨hprev, hnow⟩ := Block.begun_hsStream p none ps hs
      have hmet : (b.begun p none).waitMet k = true := (Block.waitMet_iff _ k).mpr (by rwa [hprev, hnow])
      obtain ⟨hdone, hout⟩ := hfresh.clkStep_finish (l := .waitFinish k) (rest := []) p none hr hmid hp rfl (if_pos hmet)
      rw [Block.runPins_idle ps hdone.1]
      exact ⟨rfl, hdone, hout ▸ (b.begun_keeps p none).2.2.2⟩
    | succ m =>
      have hunmet (h0 : n = 0) := hnot 0 (by omega) (Nat.succ_pos m)
      obtain ⟨hdel, hst, hdrive⟩ := h.clkStep_unmet p ps hr hmid hs hunmet
      have hfresh' := hfresh.clkStep_unmet h p ps hr hmid hs hunmet
      have hstream (j : Nat) : ((b.clkStep p).hsStream ps).getD j false = (b.hsStream (p :: ps)).getD (j + 1) false := by
        simp [Block.hsStream_clkStep p none ps hr hmid hs.1]
      obtain ⟨hleft, hdone, hdrive'⟩ := ih (m := m) hdel ((Block.rstN_of_standing hst).trans hr)
        ((Block.mid_of_standing hst).trans hmid) (Block.hsTracked_clkStep p none hr hmid hs) hfresh' (by omega)
        (by simpa using hm) (by rwa [hstream, hstream])
        fun j h1 h2 => by rw [hstream, hstream]; exact hnot (j + 1) (by omega) (by omega)
      exact ⟨hleft, hdone, hdrive.trans hdrive'⟩

/-- An accepted operation of a block alone whose run ends within the steps scheduled leaves the rest of the schedule. -/
theorem exec_alone_ends {s : State} {i : Instr} {b : Block} {ps : List Pins} {es : List Event} (h : s.aloneFor i b)
    (henv : s.env = clks .near ps ++ es) (hends : ((b.accept i (programOf b.cfg i)).runPins ps).1.busy = false) :
    ∃ t, exec i s = .next t ∧ t.env = clks .near ((b.accept i (programOf b.cfg i)).runPins ps).2 ++ es ∧
      t.near = ((b.accept i (programOf b.cfg i)).runPins ps).1 := by
  obtain ⟨hfar, hport, hready⟩ := h
  have hexec := exec_of_readyFor hready
  set a := b.accept i (programOf b.cfg i)
  have hrun := State.runWhile_clks_alone ps es (s.set .near a).note hfar
  rw [show (s.set .near a).note.near = a from rfl, State.runWhile_stop _
    (show State.running { (s.set .near a).note with near := (a.runPins ps).1 } .near = false from hends)] at hrun
  rw [hport, henv, hrun] at hexec
  exact ⟨_, hexec, rfl, rfl⟩

/-- Settles O28: the accepted wait runs to the cycle that shows the awaited change. -/
theorem waitCompletesInFirstMatchingCycle : Obligations.WaitCompletesInFirstMatchingCycle := by
  unfold Obligations.WaitCompletesInFirstMatchingCycle
  intro k arg lvl s b ps es m h hinv henv hdelay hm hseen hnot
  obtain ⟨-, -, ⟨-, hr, hb⟩, -⟩ := id h
  have hstart : (b.accept (k.instr arg lvl) (waitProg k)).Delaying .prepoll [.waitFinish k]
      (b.delayCycles b.regs.prepoll) := Block.delaying_of_prog (hinv.tmr_of_idle hb) (Block.goto_prog _ _)
  obtain ⟨hleft, hdone, hdrive⟩ := hstart.runPins_met ps hr rfl hinv.hsTracked (b.fresh_accept _ _) hdelay hm hseen hnot
  rw [← programOf_wait b.cfg k arg lvl] at hleft hdone hdrive
  obtain ⟨t, hexec, hrest, hnear⟩ := exec_alone_ends h henv hdone.1
  rw [← hnear] at hdone hdrive
  exact ⟨t, hexec, hleft ▸ hrest, hdone, hdrive⟩

end Sys2Proof.Machine
end

section
/-! SUPPORT. What the operations that write no buffer byte and no data register do write (the "Flags written" of
40_transport.md R180, R182 to R184 and 41_handshake.md R230 to R236), read off their pseudocode. -/

namespace Sys2Proof.Machine

/-- WRITE_BYTE writes COUNT, moves the transport and takes DATA (R180). -/
theorem writeOnly_writeByteProg (r : Role) :
    WriteOnly [.sckO, .xport, .timers, .dataOe, .count] (writeByteProg r) := by
  refine .append (.append (by simp [Line.writes]) ?_) (by simp [Line.writes])
  cases r with
  | initiator => exact (writeOnly_xferI .wr .locB).mono (by decide)
  | responder => simp [armLines, awaitDoneLines, Line.writes]

/-- XPORT_RESET resets the transport and the lines of the bus (R184). -/
theorem writeOnly_xportResetProg : WriteOnly [.sckO, .xport, .dataOe] xportResetProg := by
  simp [xportResetProg, Line.writes]

theorem writeOnly_waitProg (k : Wait) : WriteOnly [.timers] (waitProg k) := by
  simp [waitProg, Line.writes]

theorem writeOnly_delayProg : WriteOnly [.timers] delayProg := by
  simp [delayProg, Line.writes]

theorem writeOnly_hsDriveProg : WriteOnly [.hsO] hsDriveProg := by
  simp [hsDriveProg, Line.writes]

theorem writeOnly_nopProg : WriteOnly [] nopProg := by
  simp [nopProg, Line.writes]

/-- DATA_ACQUIRE and DATA_RELEASE write the ownership of DATA (R182, R183). -/
theorem writeOnly_driveOeFinish (v : Bool) : WriteOnly [.dataOe] [.driveOeFinish v] := by
  simp [Line.writes]

/-- Settles O50: the parts that the eleven operations' lines do not write. -/
theorem registerOnlyFrame : Obligations.RegisterOnlyFrame := by
  unfold Obligations.RegisterOnlyFrame
  intro arg lvl i s t b b' hi h henv hexec hget
  obtain ⟨fs, hw, hcommon, hcount, hhs, hoe, hbus⟩ : ∃ fs, WriteOnly fs (programOf b.cfg i) ∧
      (∀ f ∈ [Part.buf, .fixed, .data, .calcA, .rxackA, .calcB, .rxackB, .advlen, .isMatch, .isMatchB], f ∉ fs) ∧
      (i ≠ .writeByte arg lvl → .count ∉ fs) ∧
      (i ≠ .hsDrive arg lvl → .hsO ∉ fs) ∧
      (i ∉ [Instr.dataAcquire arg lvl, .dataRelease arg lvl, .xportReset arg lvl, .writeByte arg lvl] →
        .dataOe ∉ fs) ∧
      (i ∉ [Instr.xportReset arg lvl, .writeByte arg lvl] → .sckO ∉ fs ∧ .xport ∉ fs) := by
    simp only [List.mem_cons, List.not_mem_nil, or_false] at hi
    obtain rfl | rfl | rfl | rfl | rfl | rfl | rfl | rfl | rfl | rfl | rfl := hi
    · exact ⟨_, writeOnly_nopProg, by simp⟩
    · exact ⟨_, writeOnly_delayProg, by simp⟩
    · exact ⟨_, writeOnly_hsDriveProg, by simp⟩
    · exact ⟨_, writeOnly_waitProg .rise, by simp⟩
    · exact ⟨_, writeOnly_waitProg .fall, by simp⟩
    · exact ⟨_, writeOnly_waitProg .high, by simp⟩
    · exact ⟨_, writeOnly_waitProg .low, by simp⟩
    · exact ⟨_, writeOnly_driveOeFinish true, by simp⟩
    · exact ⟨_, writeOnly_driveOeFinish false, by simp⟩
    · exact ⟨_, writeOnly_xportResetProg, by simp⟩
    · exact ⟨_, writeOnly_writeByteProg _, by simp⟩
  have hview {f : Part} (hf : f ∉ fs) := exec_writeOnly h henv hexec hget hw hf
  have hset := Block.sameSettings_of_view (hview (hcommon .fixed (by simp)))
  have hcksum : b'.regs.cksum = b.regs.cksum :=
    Block.cksum_of_views (hview (hcommon .calcA (by simp))) (hview (hcommon .rxackA (by simp)))
      (hview (hcommon .calcB (by simp))) (hview (hcommon .rxackB (by simp)))
  refine ⟨fun off _ => ?_, hview (hcommon .data (by simp)), hcksum, hview (hcommon .advlen (by simp)), hset,
    hview (hcommon .isMatch (by simp)), hview (hcommon .isMatchB (by simp)), fun hne => hview (hcount hne),
    fun hne => hview (hhs hne), fun hne => hview (hoe hne), fun hne => ?_⟩
  · obtain ⟨hb, he⟩ := Prod.mk.inj (hview (hcommon .buf (by simp)))
    rw [hb, he]
    rfl
  · obtain ⟨hsck, hxport⟩ := hbus hne
    exact ⟨hview hsck, Block.xport_of_view hset.1 (hview hxport)⟩

end Sys2Proof.Machine
end

section
/-! SUPPORT. An initiator gives DATA up before it reads (41_handshake.md R217 (e), R224): in the lines of every operation no
bit is read within four lines of one at which DATA may be driven, and every line taken keeps that of the lines to come. -/

namespace Sys2Proof.Machine

/-! ## Lines that read with DATA released -/

/-- The line samples data_i. -/
def Line.readsBit : Line → Bool
  | .takeBit .rd => true
  | _ => false

/-- Whether the block drives DATA after the line, `v` if it did before. -/
def Line.owns (v : Bool) : Line → Bool
  | .driveOe w | .driveOeFinish w => w
  | .xportLines => false
  | _ => v

/-- At none of these lines to come, from the falling edge that starts a bit that is read to the line that takes it, does
the block drive DATA, `v` being whether it does at the first: the bit is at most three lines away. -/
def readsReleased (v : Bool) : List Line → Bool
  | [] => true
  | l :: ls => (!v || !((l :: ls).take 4).any Line.readsBit) && readsReleased (l.owns v) ls

/-- Lines that read with DATA released whoever owns it before them, the first bit not among their first three lines. -/
structure Releases (ls : List Line) : Prop where
  released : ∀ v, readsReleased v ls = true
  away : (ls.take 3).any Line.readsBit = false

namespace Releases

variable {xs ys : List Line}

/-- No look ahead from `xs` reaches beyond the first three lines after it. -/
theorem readsReleased_append (hy : Releases ys) : ∀ {xs : List Line} {v : Bool}, readsReleased v xs = true →
    readsReleased v (xs ++ ys) = true
  | [], v, _ => hy.released v
  | l :: xs, v, hx => by
    simp only [readsReleased, Bool.and_eq_true] at hx
    simp only [List.cons_append, readsReleased, Bool.and_eq_true]
    refine ⟨?_, readsReleased_append hy hx.2⟩
    have hlook : ((l :: (xs ++ ys)).take 4).any Line.readsBit = ((l :: xs).take 4).any Line.readsBit := by
      have hnone : (ys.take (3 - xs.length)).any Line.readsBit = false := by
        rw [List.any_eq_false]
        exact fun x hx => List.any_eq_false.mp hy.away x (List.take_subset_take_left _ (Nat.sub_le _ _) hx)
      simp [List.take_append, hnone]
    rw [hlook]
    exact hx.1

theorem append (hx : Releases xs) (hy : Releases ys) : Releases (xs ++ ys) where
  released v := hy.readsReleased_append (hx.released v)
  away := by
    rw [List.take_append, List.any_append, hx.away, Bool.false_or, List.any_eq_false]
    exact fun x hx => List.any_eq_false.mp hy.away x (List.take_subset_take_left _ (Nat.sub_le _ _) hx)

theorem flatMap {α : Type} {f : α → List Line} (as : List α) (h : ∀ a, Releases (f a)) : Releases (as.flatMap f) := by
  induction as with
  | nil => exact ⟨fun _ => rfl, rfl⟩
  | cons a as ih =>
    rw [List.flatMap_cons]
    exact (h a).append ih

/-- Lines that read no bit. -/
theorem of_no_read (h : xs.any Line.readsBit = false) : Releases xs where
  released v := by
    induction xs generalizing v with
    | nil => rfl
    | cons l xs ih =>
      have hnone : ((l :: xs).take 4).any Line.readsBit = false :=
        List.any_eq_false.mpr fun x hx => List.any_eq_false.mp h x (List.mem_of_mem_take hx)
      rw [List.any_cons, Bool.or_eq_false_iff] at h
      rw [readsReleased, hnone, ih h.2, Bool.not_false, Bool.or_true, Bool.and_true]
  away := List.any_eq_false.mpr fun x hx => List.any_eq_false.mp h x (List.mem_of_mem_take hx)

end Releases

/-! ## The operations of an initiator -/

/-- The handshake cycle that reads gives DATA up in its first line, and the one that writes reads nothing (R221). -/
theorem cycleI_releases (d : Dir) (v : Src) : Releases (cycleI d v) := by
  cases d <;> exact ⟨fun v => by cases v <;> rfl, rfl⟩

theorem sendByteI_releases (a : Acc) (j : Nat) : Releases (sendByteI a j) :=
  (cycleI_releases .wr _).append (.of_no_read rfl)

theorem overrunTail_releases : Releases overrunTail := .of_no_read rfl

theorem readRespTail_releases (n : Nat) : Releases (readRespTail n) :=
  .append (.append (.append (.of_no_read rfl)
    (.flatMap _ fun _ => (cycleI_releases .rd .locB).append (.of_no_read rfl)))
    (cycleI_releases .rd .locB)) (.of_no_read rfl)

theorem readRespProg_releases (v : Rev) : Releases (readRespProg v) := by
  refine .append (.append (.of_no_read rfl) ?_) (.of_no_read rfl)
  cases v with
  | revA =>
    exact .append (.append (.append (cycleI_releases .rd .locB) (.of_no_read rfl))
      (cycleI_releases .rd .locB)) (.of_no_read rfl)
  | revB => exact (cycleI_releases .rd .locB).append (.of_no_read rfl)

theorem sendCmdProg_releases : Releases sendCmdProg :=
  .append (.append (.append (.of_no_read rfl) (.flatMap _ fun _ => sendByteI_releases _ _))
    (cycleI_releases .rd .locB)) (.of_no_read rfl)

theorem extPacketProg_releases : Releases extPacketProg := by
  have hsend (js : List Nat) (a : Acc) : Releases (js.flatMap (sendByteI a)) := .flatMap _ (sendByteI_releases a)
  have hread : Releases (cycleI .rd .locB) := cycleI_releases .rd .locB
  have hstageA : Releases ([.clearAcc .accA] ++ (List.range 4).flatMap (sendByteI .accA) ++ cycleI .rd .locB) :=
    .append (.append (.of_no_read rfl) (hsend _ _)) hread
  exact .append (.append (.append (.append (.append (hstageA.append (.of_no_read rfl)) (.of_no_read rfl)) (hsend _ _))
    hread) (.of_no_read rfl)) (.of_no_read rfl)

theorem cksumComputeProg_releases (n : Nat) : Releases (cksumComputeProg n) :=
  .append (.append (.of_no_read rfl) (by rw [List.map_eq_flatMap]; exact .flatMap _ fun _ => .of_no_read rfl))
    (.of_no_read rfl)

theorem writeByteProg_releases : Releases (writeByteProg .initiator) := ⟨fun v => by cases v <;> rfl, rfl⟩

/-- An initiator that accepts an operation has DATA released for what it reads: READ_BYTE is refused otherwise
(30_encoding.md R125 item 4), and the frames' cycles release it. -/
theorem readsReleased_programOf {b : Block} {i : Instr} (hrole : b.cfg.role = .initiator) (hc : b.check i = .ok) :
    readsReleased b.out.dataOe (programOf b.cfg i) = true := by
  obtain ⟨hwf, hdir⟩ := (b.check_ok_iff i).mp hc
  simp only [Instr.wf, Bool.and_eq_true] at hwf
  cases i with
  | readByte arg lvl =>
    have hoe : b.out.dataOe = false := by simpa [needsRelease] using hdir
    rw [hoe, programOf, hrole]
    rfl
  | writeByte arg lvl => rw [programOf, hrole]; exact writeByteProg_releases.released _
  | cksumCompute arg lvl => exact (cksumComputeProg_releases _).released _
  | sendCmd arg lvl => exact sendCmdProg_releases.released _
  | readResp arg lvl => exact (readRespProg_releases _).released _
  | extPacket arg lvl => exact extPacketProg_releases.released _
  | rspReadCksum arg lvl => simp [Instr.roleOk, hrole] at hwf
  | rspWriteCksum arg lvl => simp [Instr.roleOk, hrole] at hwf
  | _ => exact (Releases.of_no_read rfl).released _

/-! ## Every line taken keeps it -/

/-- The block reads with DATA released in all its lines to come. -/
def Block.readsReleased (b : Block) : Prop := Machine.readsReleased b.out.dataOe b.seq.prog.lines = true

/-- A line leaves DATA owned as `owns` says. -/
theorem Block.dataOe_runLine (b : Block) (l : Line) (rest : List Line) :
    (b.runLine l rest).out.dataOe = l.owns b.out.dataOe := by
  cases l with
  | driveOe v => rfl
  | driveOeFinish v => exact congrArg Outputs.dataOe ((b.driveOe v).finish_out .ok)
  | xportLines => rfl
  | _ => exact b.view_runLine rest (f := .dataOe) (by simp [Line.writes])

theorem readsReleased_dropZero (b : Block) {v : Bool} {ls : List Line} (h : readsReleased v ls = true) :
    readsReleased v (b.dropZero ls) = true := by
  induction ls with
  | nil => exact h
  | cons l ls ih =>
    cases l with
    | delay d =>
      rw [Block.dropZero]
      split
      · simp only [readsReleased, Bool.and_eq_true] at h
        exact ih h.2
      · exact h
    | _ => exact h

section
variable {b : Block} {l : Line} {rest : List Line}

/-- A line that leaves the ownership of DATA alone, wherever the sequencer goes from it. -/
theorem Block.readsReleased.runLine_of_keeps (h : b.readsReleased) (hp : b.seq.prog = .run (l :: rest))
    (hkeep : ∀ v, l.owns v = v) : (b.runLine l rest).readsReleased := by
  rw [Block.readsReleased, hp] at h
  rw [Block.readsReleased, Block.dataOe_runLine, hkeep]
  have hrest : Machine.readsReleased b.out.dataOe rest = true := by
    simp only [Prog.lines, Machine.readsReleased, Bool.and_eq_true, hkeep] at h
    exact h.2
  obtain hstay | ⟨b1, hgo⟩ | ⟨-, b1, tail, hgo, htail⟩ | hend := b.runLine_prog l rest hp
  · rw [hstay]; exact h
  · rw [hgo]; exact readsReleased_dropZero b1 hrest
  · rw [hgo]
    refine readsReleased_dropZero b1 ?_
    obtain rfl | rfl := htail
    · exact overrunTail_releases.released _
    · exact (readRespTail_releases _).released _
  · rw [hend]; rfl

/-- Every line keeps it. -/
theorem Block.readsReleased.runLine (h : b.readsReleased) (hp : b.seq.prog = .run (l :: rest)) :
    (b.runLine l rest).readsReleased := by
  have hlines := h
  simp only [Block.readsReleased, hp, Prog.lines, Machine.readsReleased, Bool.and_eq_true] at hlines
  obtain ⟨-, hrest⟩ := hlines
  cases l with
  | driveOe v => exact readsReleased_dropZero (b.driveOe v) hrest
  | xportLines => exact readsReleased_dropZero ((b.driveOe false).driveData true) hrest
  | driveOeFinish v => rw [Block.runLine, Block.readsReleased, Block.finish_seq]; rfl
  | _ => exact h.runLine_of_keeps hp fun _ => rfl

end

/-- Every step of the clock keeps it. -/
theorem Block.readsReleased.clkStep {b : Block} (h : b.readsReleased) (hr : b.rstN = true) (p : Pins)
    (slip : Option Level) : (b.clkStep p slip).readsReleased := by
  have hstep {x : Block} (hx : x.readsReleased) : x.seqStep.readsReleased :=
    Block.seqStep_induct hx (fun _ => by rw [Block.readsReleased, Block.finish_seq]; rfl)
      (fun _ _ hp hx => hx.runLine hp) (fun _ _ hx => hx)
  cases hm : b.seq.mid with
  | true =>
    rw [Block.clkStep_mid p slip hr hm]
    exact hstep (x := b.redraw slip) h
  | false =>
    rw [Block.clkStep_begins p slip hr hm, ← Block.begun]
    obtain ⟨-, hseq, -, -, -, hoe⟩ := b.begun_keeps p slip
    exact hstep (x := b.begun p slip) (by rw [Block.readsReleased, hseq, hoe]; exact h)

/-! ## The operation -/

/-- What an accepted operation's block keeps in every step of its clock holds of it after a schedule of clock steps. -/
theorem exec_clk_induct {P : Block → Prop} {s t : State} {i : Instr} {b b' : Block} (h : s.readyFor i b)
    (henv : ∀ e ∈ s.env, e.isClk = true) (hexec : exec i s = .next t) (hget : t.get s.port = some b')
    (hstart : P (b.accept i (programOf b.cfg i)))
    (hstep : ∀ (x : Block) (p : Pins) (slip : Option Level), P x → P (x.clkStep p slip)) : P b' := by
  rw [exec_of_readyFor h] at hexec
  obtain ⟨⟨hport, -, -⟩, -⟩ := h
  cases hexec
  refine State.runWhile_induct (P := fun u => ∀ x, u.get s.port = some x → P x) s.port
    (fun u es hu x hx => hu x (by simpa using hx)) _ _ (fun x hx => ?_) (fun u e he hu _ _ x hx => ?_) b' hget
  · rw [State.note_get, State.get_set_same _ hport] at hx
    exact Option.some.inj hx ▸ hstart
  · cases e with
    | clk side p =>
      by_cases hside : s.port = side
      · subst hside
        cases hg : u.get s.port with
        | none =>
          rw [State.apply_of_absent (e := .clk s.port p) hg, hg] at hx
          cases hx
        | some y =>
          cases (State.get_apply_same (e := .clk s.port p) hg).symm.trans hx
          exact hstep y _ _ (hu y hg)
      · exact hu x (by rwa [State.get_apply_ne (e := .clk side p) hside] at hx)
    | _ => exact absurd (henv _ he) (by simp [Event.isClk])

/-- A bit that is read at most three lines on is read with DATA released. -/
theorem readsReleased_takeBit {v : Bool} {pre rest : List Line}
    (h : readsReleased v (pre ++ .takeBit .rd :: rest) = true) (hlen : pre.length ≤ 3) : v = false := by
  have hread : ((pre ++ .takeBit .rd :: rest).take 4).any Line.readsBit = true := by
    refine List.any_eq_true.mpr ⟨.takeBit .rd, ?_, rfl⟩
    rw [List.take_append, show 4 - pre.length = 3 - pre.length + 1 by omega, List.take_succ_cons]
    simp
  cases hls : pre ++ .takeBit .rd :: rest with
  | nil => simp at hls
  | cons l ls =>
    rw [hls] at h hread
    rw [readsReleased, hread, Bool.not_true, Bool.or_false, Bool.and_eq_true, Bool.not_eq_true'] at h
    exact h.1

/-- Settles O55: acceptance comes to lines that read with DATA released, and every step of the clock keeps that. -/
theorem initiatorReleasesBeforeItReads : Obligations.InitiatorReleasesBeforeItReads := by
  unfold Obligations.InitiatorReleasesBeforeItReads
  intro i s t b b' pre rest h hrole henv hexec hget hprog hlen
  obtain ⟨⟨-, hr, -⟩, hcheck⟩ := id h
  have hstart : (b.accept i (programOf b.cfg i)).readsReleased :=
    readsReleased_dropZero _ (readsReleased_programOf hrole hcheck)
  have hrst {x : Block} (p : Pins) (slip : Option Level) (hx : x.rstN = true) : (x.clkStep p slip).rstN = true :=
    (congrArg (·.2.1) (Block.settings_clkStep p slip hx)).trans hx
  obtain ⟨-, hkept⟩ := exec_clk_induct (P := fun x => x.rstN = true ∧ x.readsReleased) h henv hexec hget ⟨hr, hstart⟩
    fun x p slip ⟨hrx, hx⟩ => ⟨hrst p slip hrx, hx.clkStep hrx p slip⟩
  rw [Block.readsReleased, hprog] at hkept
  exact readsReleased_takeBit hkept hlen

end Sys2Proof.Machine
end

section
/-! SUPPORT. What the operations that store received bytes write (the "Flags written" of 42_framer.md R260, R270 and R280):
the parts their lines name, and of the buffer only the bytes those lines name, READ_RESP's within its cap. -/

namespace Sys2Proof.Machine

/-- Lines that write only the parts `fs`, and of the buffer only the bytes buf[j] with `js j`; READ_RESP's test, which
brings further lines, is among them only if `test`. -/
def StoresIn (fs : List Part) (js : Nat → Prop) (test : Prop) (ls : List Line) : Prop :=
  ∀ l ∈ ls, l.writes ⊆ fs ∧ (∀ j, l = .storeB j → js j) ∧ (l = .testOverrun → test)

namespace StoresIn

variable {fs gs : List Part} {js : Nat → Prop} {test : Prop} {xs ys : List Line}

theorem append (hx : StoresIn fs js test xs) (hy : StoresIn fs js test ys) : StoresIn fs js test (xs ++ ys) := fun l hl =>
  (List.mem_append.mp hl).elim (hx l) (hy l)

theorem flatMap {α : Type} {g : α → List Line} (as : List α) (h : ∀ a ∈ as, StoresIn fs js test (g a)) :
    StoresIn fs js test (as.flatMap g) := fun l hl =>
  let ⟨a, ha, hla⟩ := List.mem_flatMap.mp hl
  h a ha l hla

/-- Lines that write no buffer byte. -/
theorem of_writeOnly (h : WriteOnly gs xs) (hbuf : Part.buf ∉ gs) (hsub : gs ⊆ fs) : StoresIn fs js test xs := fun l hl =>
  ⟨fun _ hf => hsub ((h l hl).2 hf), fun _ hj => absurd ((h l hl).2 (hj ▸ .head _)) hbuf,
    fun ht => absurd ht (h l hl).1⟩

@[simp] theorem nil : StoresIn fs js test [] := nofun

@[simp] theorem cons_iff {l : Line} :
    StoresIn fs js test (l :: xs) ↔ (l.writes ⊆ fs ∧ (∀ j, l = .storeB j → js j) ∧ (l = .testOverrun → test)) ∧ StoresIn fs js test xs :=
  List.forall_mem_cons

end StoresIn

/-! ## The operations -/

/-- What READ_RESP writes after its test for n payload bytes (R260): buf[j] for j < n, CALC, RXACK, MATCH and COUNT. -/
theorem readRespTail_stores {fs : List Part} {js : Nat → Prop} {test : Prop} (n : Nat)
    (hfs : cycleParts .initiator ++ [.buf, .calcA, .rxackA, .isMatch, .count] ⊆ fs) (hjs : ∀ j < n, js j) :
    StoresIn fs js test (readRespTail n) := by
  have hcycle : StoresIn fs js test (cycleI .rd .locB) :=
    .of_writeOnly (writeOnly_cycleI .rd .locB) (by decide) fun _ hf => hfs (List.mem_append_left _ hf)
  have hpart {f : Part} (hf : f ∈ [Part.buf, .calcA, .rxackA, .isMatch, .count]) : f ∈ fs :=
    hfs (List.mem_append_right _ hf)
  refine .append (.append (.append (by simp [Line.writes]) (.flatMap _ fun j hj => hcycle.append ?_)) hcycle) ?_
  · simpa [Line.writes, hpart] using hjs j (List.mem_range.mp hj)
  · simp [Line.writes, hpart]

theorem capSettled_readRespTail (n : Nat) : capSettled (readRespTail n) = false := by
  have hread : capSettled (cycleI .rd .locB) = false := rfl
  refine capSettled_append (capSettled_append (capSettled_append rfl ?_) hread) rfl
  induction List.range n with
  | nil => rfl
  | cons j js ih =>
    rw [List.flatMap_cons]
    exact capSettled_append (capSettled_append hread rfl) ih

/-- READ_RESP writes ADVLEN before its test (R260). -/
theorem readRespProg_stores {fs : List Part} {js : Nat → Prop} (v : Rev) (hfs : cycleParts .initiator ++ [.advlen] ⊆ fs) :
    StoresIn fs js True (readRespProg v) := by
  have hcycle : StoresIn fs js True (cycleI .rd .locB) :=
    .of_writeOnly (writeOnly_cycleI .rd .locB) (by decide) fun _ hf => hfs (List.mem_append_left _ hf)
  have hadv : Part.advlen ∈ fs := hfs (List.mem_append_right _ (.head _))
  refine .append (.append (by simp [Line.writes]) ?_) (by simp [Line.writes, hadv])
  cases v with
  | revA => exact .append (.append (.append hcycle (by simp [Line.writes])) hcycle) (by simp [Line.writes])
  | revB => exact hcycle.append (by simp [Line.writes])

/-! ## Every line taken stays in the frame -/

/-- No line touches the latched ARG. -/
@[simp] theorem Block.argv_runLine (b : Block) (l : Line) (rest : List Line) :
    (b.runLine l rest).seq.argv = b.seq.argv := by
  cases l with
  | delay d => obtain ⟨tmr, prog, he⟩ := b.delayCycle_eq (b.ticks d) (.delay d :: rest) rest; rw [Block.runLine, he]
  | hold => obtain ⟨hph, prog, he⟩ := b.holdCycle_eq (.hold :: rest) rest; rw [Block.runLine, he]
  | loadSh v | armSh v => cases v <;> rfl
  | awaitHs a | awaitByte | testOverrun => simp only [Block.runLine]; split <;> rfl
  | waitFinish k => simp only [Block.runLine]; split <;> simp
  | xportSck => simp only [Block.runLine]; split <;> rfl
  | _ => simp [Block.runLine, Block.countHalf]

/-- Only its own line sets READ_RESP's cap. -/
theorem Block.cap_runLine (b : Block) {l : Line} (rest : List Line) (h : l ≠ .setCap) :
    (b.runLine l rest).seq.locs.cap = b.seq.locs.cap := by
  cases l with
  | setCap => exact absurd rfl h
  | delay d => obtain ⟨tmr, prog, he⟩ := b.delayCycle_eq (b.ticks d) (.delay d :: rest) rest; rw [Block.runLine, he]
  | hold => obtain ⟨hph, prog, he⟩ := b.holdCycle_eq (.hold :: rest) rest; rw [Block.runLine, he]
  | loadSh v | armSh v => cases v <;> rfl
  | clearAcc a | addBuf a j => cases a <;> rfl
  | awaitHs a | awaitByte | testOverrun => simp only [Block.runLine]; split <;> rfl
  | waitFinish k => simp only [Block.runLine]; split <;> simp
  | xportSck => simp only [Block.runLine]; split <;> rfl
  | _ => simp [Block.runLine, Block.countHalf]

/-- A line that stores in the frame leaves every other byte alone. -/
theorem Block.readByte_runLine (b : Block) {l : Line} (rest : List Line) {off : Nat}
    (h : ∀ j, l = .storeB j → off ≠ bufOffset j) :
    (b.runLine l rest).buf.readByte (b.runLine l rest).bufEpoch off = b.buf.readByte b.bufEpoch off := by
  rw [Block.bufEpoch_runLine]
  obtain hbuf | ⟨j, hj, hbuf⟩ := b.buf_runLine l rest
  · rw [hbuf]
  · rw [hbuf, Memory.readByte_writeByte_other _ _ _ (h j hj)]

/-- If READ_RESP's test may be among the lines, its two endings are in the frame, for L at most `cap`. -/
def Tails (fs : List Part) (js : Nat → Prop) (test : Prop) (cap : Nat) : Prop :=
  test → StoresIn fs js test overrunTail ∧ ∀ n ≤ cap, StoresIn fs js test (readRespTail n)

/-- The block `x` comes of the accepting block `a` by lines that write only `fs` and `js`; READ_RESP's cap, once set, is
the `cap` within which its stores are in `js`. -/
structure Block.Storing (a : Block) (fs : List Part) (js : Nat → Prop) (test : Prop) (cap : Nat) (x : Block) : Prop where
  lines : StoresIn fs js test x.seq.prog.lines
  view : ∀ f, f ∉ fs → x.view f = a.view f
  bytes : ∀ off, (∀ j, js j → off ≠ bufOffset j) → x.buf.readByte x.bufEpoch off = a.buf.readByte a.bufEpoch off
  argv : x.seq.argv = a.seq.argv
  capBound : capSettled x.seq.prog.lines = true → x.seq.locs.cap.toNat ≤ cap

section
variable {a x y : Block} {fs : List Part} {js : Nat → Prop} {test : Prop} {cap : Nat} {l : Line} {rest : List Line}

/-- The frame looks at the position, the latches and the parts. -/
theorem Block.Storing.congr (h : a.Storing fs js test cap x) (hseq : y.seq = { x.seq with mid := y.seq.mid })
    (hview : ∀ f, y.view f = x.view f) : a.Storing fs js test cap y where
  lines := by rw [hseq]; exact h.lines
  view f hf := (hview f).trans (h.view f hf)
  bytes off hoff := by
    obtain ⟨hbuf, hepoch⟩ := Prod.mk.inj (hview .buf)
    rw [hbuf, hepoch]
    exact h.bytes off hoff
  argv := by rw [hseq]; exact h.argv
  capBound := by rw [hseq]; exact h.capBound

/-- The frame of a block that has gone on at other lines. -/
theorem Block.Storing.of_lines {ls : List Line} (h : a.Storing fs js test cap x) (hp : x.seq.prog = .run (l :: rest))
    (hmem : ∀ k ∈ (x.runLine l rest).seq.prog.lines, k ∈ ls) (hls : StoresIn fs js test ls)
    (hcap : capSettled (x.runLine l rest).seq.prog.lines = true → (x.runLine l rest).seq.locs.cap.toNat ≤ cap) :
    a.Storing fs js test cap (x.runLine l rest) := by
  obtain ⟨hwrites, hstores, -⟩ := h.lines l (by simp [hp, Prog.lines])
  exact {
    lines := fun k hk => hls k (hmem k hk)
    view := fun f hf => (x.view_runLine rest fun hw => hf (hwrites hw)).trans (h.view f hf)
    bytes := fun off hoff => (x.readByte_runLine rest fun j hj => hoff j (hstores j hj)).trans (h.bytes off hoff)
    argv := (x.argv_runLine l rest).trans h.argv
    capBound := hcap }

/-- The overrun test goes on with a tail that stores within the cap (42_framer.md R260). -/
theorem Block.Storing.testOverrun (h : a.Storing fs js test cap x) (hp : x.seq.prog = .run (.testOverrun :: rest))
    (htails : Tails fs js test cap) : a.Storing fs js test cap (x.runLine .testOverrun rest) := by
  obtain ⟨-, -, htest⟩ := h.lines .testOverrun (by simp [hp, Prog.lines])
  obtain ⟨hover, htail⟩ := htails (htest rfl)
  have hcap : x.seq.locs.cap.toNat ≤ cap := h.capBound (by rw [hp]; rfl)
  have hgo {tail : List Line} (hrun : x.runLine .testOverrun rest = x.goto tail) (ht : StoresIn fs js test tail)
      (hset : capSettled tail = false) : a.Storing fs js test cap (x.runLine .testOverrun rest) := by
    refine h.of_lines (ls := tail) hp (fun k hk => ?_) ht fun hc => ?_
    · rw [hrun] at hk
      exact x.mem_of_mem_dropZero hk
    · rw [hrun] at hc
      exact absurd ((x.capSettled_dropZero tail).symm.trans hc) (by simp [hset])
  by_cases hlt : x.seq.locs.cap < x.seq.locs.len
  · exact hgo (if_pos hlt) hover rfl
  · have hlen : x.seq.locs.len.toNat ≤ cap := by rw [BitVec.lt_def] at hlt; omega
    exact hgo (if_neg hlt) (htail _ hlen) (capSettled_readRespTail _)

/-- Every line stays in the frame. -/
theorem Block.Storing.runLine (h : a.Storing fs js test cap x) (hp : x.seq.prog = .run (l :: rest))
    (htails : Tails fs js test cap) (hcap : min a.seq.argv.toNat x.cfg.bufSize.bytes ≤ cap) :
    a.Storing fs js test cap (x.runLine l rest) := by
  have hlines : StoresIn fs js test (l :: rest) := by have := h.lines; rwa [hp] at this
  have hbound (hc : capSettled rest = true) : (x.runLine l rest).seq.locs.cap.toNat ≤ cap ∨ l = .testOverrun := by
    by_cases hset : l = .setCap
    · subst hset
      have hmod := Nat.mod_le (min x.seq.argv.toNat x.cfg.bufSize.bytes) (2 ^ 16)
      rw [h.argv] at hmod
      exact .inl (by simpa [Block.runLine, h.argv] using hmod.trans hcap)
    · by_cases htest : l = .testOverrun
      · exact .inr htest
      · refine .inl ?_
        rw [x.cap_runLine rest hset]
        exact h.capBound (by rw [hp, Prog.lines, capSettled, if_neg htest, if_neg hset, hc])
  by_cases htest : l = .testOverrun
  · exact htest ▸ h.testOverrun (htest ▸ hp) htails
  obtain hstay | ⟨b1, hgo⟩ | ⟨heq, -⟩ | hend := x.runLine_prog l rest hp
  · refine h.of_lines hp (ls := l :: rest) (by simp [hstay, Prog.lines]) hlines fun hc => ?_
    rw [hstay, Prog.lines, capSettled, if_neg htest] at hc
    split at hc
    · cases hc
    · exact (hbound hc).resolve_right htest
  · refine h.of_lines hp (ls := rest) (fun k hk => ?_) (StoresIn.cons_iff.mp hlines).2 fun hc => ?_
    · rw [hgo] at hk; exact b1.mem_of_mem_dropZero hk
    · rw [hgo, Prog.lines, b1.capSettled_dropZero] at hc
      exact (hbound hc).resolve_right htest
  · exact absurd heq htest
  · exact h.of_lines hp (ls := []) (by simp [hend, Prog.lines]) .nil (by simp [hend, Prog.lines, capSettled])

/-- Every step of the clock stays in the frame. -/
theorem Block.Storing.clkStep (h : a.Storing fs js test cap x) (hr : x.rstN = true)
    (htails : Tails fs js test cap) (hcap : min a.seq.argv.toNat x.cfg.bufSize.bytes ≤ cap) (p : Pins) (slip : Option Level) :
    a.Storing fs js test cap (x.clkStep p slip) := by
  have hstep {z : Block} (hz : a.Storing fs js test cap z) (hcfg : z.cfg = x.cfg) : a.Storing fs js test cap z.seqStep := by
    refine Block.seqStep_induct hz (fun hz => ?_) (fun l rest hp hz => hz.runLine hp htails (hcfg ▸ hcap))
      (fun z m hz => hz.congr rfl fun f => by cases f <;> rfl)
    exact ⟨by simp [Prog.lines], fun f hf => (z.view_finish .ok f).trans (hz.view f hf), by simpa using hz.bytes,
      by simpa using hz.argv, by simp [Prog.lines, capSettled]⟩
  cases hm : x.seq.mid with
  | true =>
    rw [Block.clkStep_mid p slip hr hm]
    exact hstep (h.congr (y := x.redraw slip) rfl fun f => by cases f <;> rfl) rfl
  | false =>
    rw [Block.clkStep_begins p slip hr hm, ← Block.begun]
    obtain ⟨hst, hseq, -⟩ := x.begun_keeps p slip
    have hbegun : a.Storing fs js test cap (x.begun p slip) := h.congr (by rw [hseq]) (x.view_begun p slip)
    exact (hstep hbegun (Block.cfg_of_standing hst)).congr rfl fun f => by cases f <;> rfl

end

/-- An accepted operation over steps of clocks stays in the frame of its lines, its stores within the cap. -/
theorem exec_storing {s t : State} {i : Instr} {b b' : Block} {fs : List Part} {js : Nat → Prop} {test : Prop}
    (h : s.readyFor i b) (henv : ∀ e ∈ s.env, e.isClk = true) (hexec : exec i s = .next t)
    (hget : t.get s.port = some b') (hlines : StoresIn fs js test (programOf b.cfg i))
    (htails : Tails fs js test (min i.arg.toNat b.cfg.bufSize.bytes)) :
    (b.accept i (programOf b.cfg i)).Storing fs js test (min i.arg.toNat b.cfg.bufSize.bytes) b' := by
  obtain ⟨⟨-, hr, -⟩, hcheck⟩ := id h
  set a := b.accept i (programOf b.cfg i)
  have hset : capSettled (programOf b.cfg i) = false := (programOf_runnable ((b.check_ok_iff i).mp hcheck).1).capSet
  have hstart : a.Storing fs js test (min i.arg.toNat b.cfg.bufSize.bytes) a := by
    refine ⟨fun l hl => hlines l (Block.mem_of_mem_dropZero _ hl), fun _ _ => rfl, fun _ _ => rfl, rfl, fun hc => ?_⟩
    exact absurd ((Block.capSettled_dropZero _ _).symm.trans hc) (by simp [hset])
  obtain ⟨-, -, hkept⟩ := exec_clk_induct (P := fun x => x.rstN = true ∧ x.cfg = b.cfg ∧
      a.Storing fs js test (min i.arg.toNat b.cfg.bufSize.bytes) x) h henv hexec hget ⟨hr, rfl, hstart⟩
    fun x p slip ⟨hrx, hcfg, hx⟩ => ⟨(congrArg (·.2.1) (Block.settings_clkStep p slip hrx)).trans hrx,
      (x.cfg_clkStep p slip).trans hcfg, hx.clkStep hrx htails (by rw [hcfg]; exact le_rfl) p slip⟩
  exact hkept

/-- EXT_PACKET stores buf[4] and buf[16] (R270). -/
theorem extPacketProg_stores : StoresIn
    (cycleParts .initiator ++ [.buf, .calcA, .rxackA, .calcB, .rxackB, .isMatch, .isMatchB, .count])
    (fun j => j = 4 ∨ j = 16) False extPacketProg := by
  set fs := cycleParts .initiator ++ [.buf, .calcA, .rxackA, .calcB, .rxackB, .isMatch, .isMatchB, .count]
  have hcycle (d : Dir) (v : Src) : StoresIn fs (fun j => j = 4 ∨ j = 16) False (cycleI d v) :=
    .of_writeOnly (writeOnly_cycleI d v) (by decide) (List.subset_append_left _ _)
  have hsend (a : Acc) (js : List Nat) : StoresIn fs (fun j => j = 4 ∨ j = 16) False (js.flatMap (sendByteI a)) :=
    .flatMap _ fun j _ => (hcycle .wr (.buf j)).append (by simp [Line.writes])
  have hread := hcycle .rd .locB
  refine .append (.append (.append (.append (.append (.append (.append (.append ?_ (hsend _ _)) hread) ?_) ?_)
    (hsend _ _)) hread) ?_) ?_ <;> simp [Line.writes, fs, cycleParts]

/-- RSP_READ_CKSUM stores buf[j] for j < n (R280). -/
theorem rspReadCksumProg_stores (n : Nat) : StoresIn (cycleParts .responder ++ [.buf, .calcA, .count])
    (fun j => j < n) False (rspReadCksumProg n) := by
  have hcycle (d : Dir) (v : Src) : StoresIn (cycleParts .responder ++ [.buf, .calcA, .count]) (fun j => j < n) False
      (cycleR d v) := .of_writeOnly (writeOnly_cycleR d v) (by decide) (List.subset_append_left _ _)
  refine .append (.append (.append (by simp [Line.writes]) (.flatMap _ fun j hj => (hcycle .rd .locB).append ?_))
    (hcycle .wr .acc)) (by simp [Line.writes])
  simpa [Line.writes] using List.mem_range.mp hj

/-- The parts that READ_RESP writes in all its lines. -/
def respParts : List Part := cycleParts .initiator ++ [.buf, .advlen, .calcA, .rxackA, .isMatch, .count]

theorem readResp_tails (cap : Nat) : Tails respParts (fun j => j < cap) True cap := fun _ =>
  ⟨by simp [overrunTail, Line.writes, respParts], fun n hn => readRespTail_stores n (by decide) fun _ hj => hj.trans_le hn⟩

/-- Settles O52: the parts and the bytes that the three operations' lines name. -/
theorem storingFrame : Obligations.StoringFrame := by
  unfold Obligations.StoringFrame
  intro arg lvl i s t b b' hi h hinv henv hexec hget
  obtain ⟨fs, js, test, hlines, htails, hfixed, hadv, hstage, hresp, hext, hrsp⟩ : ∃ fs js test,
      StoresIn fs js test (programOf b.cfg i) ∧ Tails fs js test (min i.arg.toNat b.cfg.bufSize.bytes) ∧
      (.fixed ∉ fs ∧ .data ∉ fs) ∧ (i ≠ .readResp arg lvl → .advlen ∉ fs) ∧
      (i ≠ .extPacket arg lvl → .calcB ∉ fs ∧ .rxackB ∉ fs ∧ .isMatchB ∉ fs) ∧
      (i = .readResp arg lvl → js = fun j => j < min arg.toNat b.cfg.bufSize.bytes) ∧
      (i = .extPacket arg lvl → js = fun j => j = 4 ∨ j = 16) ∧
      (i = .rspReadCksum arg lvl → .rxackA ∉ fs ∧ js = fun j => j < arg.toNat) := by
    simp only [List.mem_cons, List.not_mem_nil, or_false] at hi
    obtain rfl | rfl | rfl := hi
    · exact ⟨_, _, _, readRespProg_stores _ (by decide), readResp_tails _, by decide, by simp, by simp [respParts, cycleParts],
        fun _ => rfl, nofun, nofun⟩
    · exact ⟨_, _, _, extPacketProg_stores, nofun, by decide, by simp [cycleParts], by simp, nofun, fun _ => rfl, nofun⟩
    · exact ⟨_, _, _, rspReadCksumProg_stores _, nofun, by decide, by simp [cycleParts], by simp [cycleParts], nofun,
        nofun, fun _ => ⟨by decide, rfl⟩⟩
  have hframe := exec_storing h henv hexec hget hlines htails
  have hview {f : Part} (hf : f ∉ fs) := hframe.view f hf
  refine ⟨Block.sameSettings_of_view (hview hfixed.1), hview hfixed.2, fun hi off hoff => ?_, fun hi off hoff => ?_,
    fun hi off hoff => ?_, fun hi => hview (hadv hi), fun hi => ?_, fun hi => hview (hrsp hi).1⟩
  · exact hframe.bytes off fun j hj he => hoff ⟨j, by rwa [hresp hi] at hj, he⟩
  · refine hframe.bytes off fun j hj he => hoff ?_
    rw [hext hi] at hj
    exact hj.imp (fun (h : j = 4) => h ▸ he) fun (h : j = 16) => h ▸ he
  · exact hframe.bytes off fun j hj he => hoff ⟨j, by rwa [(hrsp hi).2] at hj, he⟩
  · obtain ⟨hcalc, hack, hmatch⟩ := hstage hi
    exact ⟨hview hcalc, hview hack, hview hmatch⟩

end Sys2Proof.Machine
end

section
/-! SUPPORT. The runs of a block's clock with an operation on: whatever the pins and the draws may be, and where every run that
ends leads; and what of a schedule a block alone sees. -/

namespace Sys2Proof.Machine

/-- What has crossed DATA: for each bit, whether the block at hand drives the line, and its level. -/
abbrev Wire := List (Bool × Level)

/-- `b'` comes of `b` by steps of its clock, each with an operation on, and `w` crosses DATA meanwhile. -/
inductive Block.Ran : Block → Wire → Block → Prop
  | refl (b : Block) : b.Ran [] b
  | step {b b' : Block} {w : Wire} (p : Pins) (slip : Option Level) (hbusy : b.busy = true)
      (h : (b.clkStep p slip).Ran w b') : b.Ran (b.taken (b.clkStep p slip) ++ w) b'

/-- A run goes on by a step. -/
theorem Block.Ran.snoc {b b' : Block} {w : Wire} (h : b.Ran w b') (p : Pins) (slip : Option Level) (hbusy : b'.busy = true) :
    b.Ran (w ++ b'.taken (b'.clkStep p slip)) (b'.clkStep p slip) := by
  induction h with
  | refl b => simpa using Block.Ran.step p slip hbusy (.refl _)
  | step q slip' hb _ ih => rw [List.append_assoc]; exact .step q slip' hb (ih hbusy)

/-- The run of a block alone over steps of its clock, and its wire. -/
theorem Block.ran_runPins (ps : List Pins) : ∀ b : Block, b.Ran (b.wire ps) (b.runPins ps).1 := by
  induction ps with
  | nil => exact fun b => .refl b
  | cons p ps ih =>
    intro b
    cases hb : b.busy with
    | false => rw [Block.wire_idle _ hb, Block.runPins_idle _ hb]; exact .refl b
    | true => rw [Block.wire_busy p ps hb, Block.runPins_busy p ps hb]; exact .step p none hb (ih _)

/-- An accepted operation over steps of clocks, of either block, is a run of the accepting block. -/
theorem exec_ran {s t : State} {i : Instr} {b b' : Block} (h : s.readyFor i b) (henv : ∀ e ∈ s.env, e.isClk = true)
    (hexec : exec i s = .next t) (hget : t.get s.port = some b') :
    ∃ w, (b.accept i (programOf b.cfg i)).Ran w b' := by
  rw [exec_of_readyFor h] at hexec
  obtain ⟨⟨hport, -, -⟩, -⟩ := h
  set a := b.accept i (programOf b.cfg i)
  cases hexec
  refine State.runWhile_induct (P := fun u => ∀ x, u.get s.port = some x → ∃ w, a.Ran w x) s.port
    (fun u es hu x hx => hu x (by simpa using hx)) _ _ (fun x hx => ?_) (fun u e he hu hrun _ x hx => ?_) b' hget
  · rw [State.note_get, State.get_set_same _ hport] at hx
    exact Option.some.inj hx ▸ ⟨[], .refl a⟩
  · cases e with
    | clk side p =>
      by_cases hside : s.port = side
      · subst hside
        unfold State.running at hrun
        split at hrun
        · next y hy =>
          cases (State.get_apply_same (e := .clk s.port p) hy).symm.trans hx
          obtain ⟨w, hw⟩ := hu y hy
          exact ⟨_, hw.snoc _ _ hrun⟩
        · cases hrun
      · exact hu x (by rwa [State.get_apply_ne (e := .clk side p) hside] at hx)
    | _ => exact absurd (henv _ he) (by simp [Event.isClk])

/-- The same with the wire, if the block is alone and only its clock is scheduled. -/
theorem exec_ran_wire {s t : State} {i : Instr} {b b' : Block} (h : s.readyFor i b) (henv : ∀ e ∈ s.env, e.isClk = true)
    (hexec : exec i s = .next t) (hget : t.get s.port = some b') :
    ∃ w, (b.accept i (programOf b.cfg i)).Ran w b' ∧ ∀ ps, s.far = none → s.port = .near → s.env = clks .near ps →
      (b.submit i (programOf b.cfg i)).wire ps = w := by
  obtain ⟨⟨-, -, hidle⟩, hcheck⟩ := id h
  by_cases halone : ∃ ps, s.far = none ∧ s.port = .near ∧ s.env = clks .near ps
  · obtain ⟨ps, hfar, hport, hclks⟩ := halone
    obtain ⟨u, hexec', hnear⟩ := exec_alone ⟨hfar, hport, h⟩ hclks
    cases hexec.symm.trans hexec'
    rw [hport] at hget
    cases hget
    rw [hnear]
    refine ⟨_, Block.ran_runPins ps _, fun qs _ _ hclks' => ?_⟩
    have hinj : ps = qs := List.map_injective_iff.mpr (fun _ _ he => by cases he; rfl) (hclks.symm.trans hclks')
    rw [Block.submit_of_ok _ hidle hcheck, hinj]
  · obtain ⟨w, hw⟩ := exec_ran h henv hexec hget
    exact ⟨w, hw, fun ps hfar hport hclks => absurd ⟨ps, hfar, hport, hclks⟩ halone⟩

/-! ## Runs that end -/

/-- `Q` holds of every end of a run of `b`, `w` having crossed DATA before it. -/
def Block.Safe (Q : Wire → Block → Prop) (w : Wire) (b : Block) : Prop :=
  ∀ w' b', b.Ran w' b' → b'.busy = false → Q (w ++ w') b'

section
variable {Q : Wire → Block → Prop} {w : Wire} {b : Block}

theorem Block.Safe.done (hidle : b.busy = false) (h : Q w b) : b.Safe Q w := by
  rintro w' b' hran -
  cases hran with
  | refl => rwa [List.append_nil]
  | step p slip hbusy _ => exact absurd (hidle.symm.trans hbusy) Bool.false_ne_true

theorem Block.Safe.step (hbusy : b.busy = true)
    (h : ∀ p slip, (b.clkStep p slip).Safe Q (w ++ b.taken (b.clkStep p slip))) : b.Safe Q w := by
  intro w' b' hran hidle
  cases hran with
  | refl => exact absurd (hidle.symm.trans hbusy) Bool.false_ne_true
  | step p slip _ hran => rw [← List.append_assoc]; exact h p slip _ _ hran hidle

/-- A wait that every step either keeps, as `J` says, or ends. -/
theorem Block.Safe.wait {J : Wire → Block → Prop} (hJ : ∀ w x, J w x → x.busy = true)
    (hstep : ∀ w x p slip, J w x → J (w ++ x.taken (x.clkStep p slip)) (x.clkStep p slip) ∨
      (x.clkStep p slip).Safe Q (w ++ x.taken (x.clkStep p slip))) (h : J w b) : b.Safe Q w := by
  intro w' b' hran hidle
  induction hran generalizing w with
  | refl b => exact absurd (hidle.symm.trans (hJ w b h)) Bool.false_ne_true
  | step p slip _ hran ih =>
    rw [← List.append_assoc]
    exact (hstep w _ p slip h).elim (fun hstay => ih hstay hidle) fun hend => hend _ _ hran hidle

end

/-! ## Runs of a block alone, by the levels it sees -/

/-- `b'` comes of `b` alone by steps of its clock, each with an operation on, `w` crossing DATA meanwhile; `ps` are the pins of
the steps that begin a clk cycle, the only ones the synchronisers take (log 28). -/
inductive Block.Plays : Block → List Pins → Wire → Block → Prop
  | refl (b : Block) : b.Plays [] [] b
  | cycle {b b' : Block} {ps : List Pins} {w : Wire} (p : Pins) (hbusy : b.busy = true) (hmid : b.seq.mid = false)
      (h : (b.clkStep p).Plays ps w b') : b.Plays (p :: ps) (b.taken (b.clkStep p) ++ w) b'
  | mid {b b' : Block} {ps : List Pins} {w : Wire} (p : Pins) (hbusy : b.busy = true) (hmid : b.seq.mid = true)
      (h : (b.clkStep p).Plays ps w b') : b.Plays ps (b.taken (b.clkStep p) ++ w) b'

/-- Some run of `b` that begins with the pins `F` ends with `Q`, `w` having crossed DATA before it. -/
def Block.Can (Q : Wire → Block → Prop) (F : List Pins) (w : Wire) (b : Block) : Prop :=
  ∃ ps w' b', F <+: ps ∧ b.Plays ps w' b' ∧ b'.busy = false ∧ Q (w ++ w') b'

section
variable {Q : Wire → Block → Prop} {F : List Pins} {w : Wire} {b : Block}

theorem Block.Can.done (hidle : b.busy = false) (h : Q w b) : b.Can Q [] w :=
  ⟨[], [], b, List.prefix_rfl, .refl b, hidle, by rwa [List.append_nil]⟩

/-- A clk cycle with the pins that have to come next. -/
theorem Block.Can.forced {p : Pins} (hbusy : b.busy = true) (hmid : b.seq.mid = false)
    (h : (b.clkStep p).Can Q F (w ++ b.taken (b.clkStep p))) : b.Can Q (p :: F) w := by
  obtain ⟨ps, w', b', hpre, hrun, hidle, hQ⟩ := h
  exact ⟨_, _, b', List.cons_prefix_cons.mpr ⟨rfl, hpre⟩, .cycle p hbusy hmid hrun, hidle, by rwa [← List.append_assoc]⟩

/-- A step with pins of choice, where none have to come. -/
theorem Block.Can.choose (p : Pins) (hbusy : b.busy = true) (h : (b.clkStep p).Can Q [] (w ++ b.taken (b.clkStep p))) :
    b.Can Q [] w := by
  obtain ⟨ps, w', b', -, hrun, hidle, hQ⟩ := h
  rw [List.append_assoc] at hQ
  cases hmid : b.seq.mid with
  | true => exact ⟨_, _, b', List.nil_prefix, .mid p hbusy hmid hrun, hidle, hQ⟩
  | false => exact ⟨_, _, b', List.nil_prefix, .cycle p hbusy hmid hrun, hidle, hQ⟩

end

end Sys2Proof.Machine
end

section
/-! SUPPORT. A block over steps of its clock against the pseudocode run line by line without a clock: they agree but for the
synchronisers and for what CLK edges do to a responder. -/

namespace Sys2Proof.Machine

/-! ## What neither the synchronisers nor the edge engine touch -/

/-- The block but for its events, its transport, data_o and its synchronisers. -/
def Block.core (b : Block) : Block :=
  { b with
    regs.events := 0#5
    xp := .reset
    out.dataO := true
    sync := ⟨[], [], [], false, false, false⟩ }

section
variable {x y : Block} (h : x.core = y.core)
include h

theorem Block.cfg_of_core : x.cfg = y.cfg := by simpa only [Block.core] using congrArg (fun b : Block => b.cfg) h
theorem Block.rstN_of_core : x.rstN = y.rstN := by simpa only [Block.core] using congrArg (fun b : Block => b.rstN) h
theorem Block.seq_of_core : x.seq = y.seq := by simpa only [Block.core] using congrArg (fun b : Block => b.seq) h
theorem Block.dataOe_of_core : x.out.dataOe = y.out.dataOe := by simpa only [Block.core] using congrArg (fun b : Block => b.out.dataOe) h
theorem Block.sckO_of_core : x.out.sckO = y.out.sckO := by simpa only [Block.core] using congrArg (fun b : Block => b.out.sckO) h
theorem Block.hsO_of_core : x.out.hsO = y.out.hsO := by simpa only [Block.core] using congrArg (fun b : Block => b.out.hsO) h
theorem Block.buf_of_core : x.buf = y.buf := by simpa only [Block.core] using congrArg (fun b : Block => b.buf) h
theorem Block.bufEpoch_of_core : x.bufEpoch = y.bufEpoch := by simpa only [Block.core] using congrArg (fun b : Block => b.bufEpoch) h
theorem Block.result_of_core : x.regs.result = y.regs.result := by simpa only [Block.core] using congrArg (fun b : Block => b.regs.result) h

theorem Block.srcByte_of_core (v : Src) : x.srcByte v = y.srcByte v := by
  calc x.srcByte v = x.core.srcByte v := by cases v <;> rfl
    _ = y.core.srcByte v := by rw [h]
    _ = y.srcByte v := by cases v <;> rfl
theorem Block.statusOp_of_core : x.regs.statusOp = y.regs.statusOp := by
  simpa only [Block.core] using congrArg (fun b : Block => b.regs.statusOp) h
theorem Block.cksum_of_core : x.regs.cksum = y.regs.cksum := by
  simpa only [Block.core] using congrArg (fun b : Block => b.regs.cksum) h
theorem Block.advlen_of_core : x.regs.advlen = y.regs.advlen := by
  simpa only [Block.core] using congrArg (fun b : Block => b.regs.advlen) h

end

@[simp] theorem Block.core_core (b : Block) : b.core.core = b.core := rfl
@[simp] theorem Block.core_withSync (b : Block) (s : Sync) : (b.withSync s).core = b.core := rfl
@[simp] theorem Block.core_latchPrev (b : Block) : b.latchPrev.core = b.core := rfl

theorem Block.core_goto (b : Block) (ls : List Line) : (b.goto ls).core = b.core.goto ls := by
  have hdrop : b.core.dropZero ls = b.dropZero ls := Block.dropZero_congr (fun d => by cases d <;> rfl) ls
  rw [Block.goto, Block.goto, hdrop]
  rfl

theorem Block.core_finish (b : Block) (c : ResultCode) : (b.finish c).core = (b.core.finish c).core := by
  unfold Block.finish
  cases c.isError <;> rfl

/-- The start of a clk cycle is in the synchronisers and the edge engine. -/
@[simp] theorem Block.core_begun (b : Block) (p : Pins) (slip : Option Level) : (b.begun p slip).core = b.core := by
  obtain ⟨ev, x, d, q, -, he⟩ := (b.syncShift p slip).edgeEngine_eq
  rw [Block.begun, he]
  rfl

/-! ## Lines that take one step whatever the lines of the block show -/

/-- The line is neither part of a byte transfer nor an await, and what it does hangs on nothing that CLK edges change. -/
inductive Line.Calm : Line → Prop
  | driveOe (v : Bool) : Calm (.driveOe v)
  | driveHs (a : Bool) : Calm (.driveHs a)
  | delay (d : Delay) : Calm (.delay d)
  | loadSh (v : Src) : Calm (.loadSh v)
  | armSh (v : Src) : Calm (.armSh v)
  | clearDone : Calm .clearDone
  | driveBit0 (v : Src) : Calm (.driveBit0 v)
  | arm : Calm .arm
  | clearAcc (a : Acc) : Calm (.clearAcc a)
  | addBuf (a : Acc) (j : Nat) : Calm (.addBuf a j)
  | addB : Calm .addB
  | storeB (j : Nat) : Calm (.storeB j)
  | setN : Calm .setN
  | setCap : Calm .setCap
  | setLo : Calm .setLo
  | setHi : Calm .setHi
  | joinLen : Calm .joinLen
  | widenLen : Calm .widenLen
  | setAdvlen : Calm .setAdvlen
  | testOverrun : Calm .testOverrun
  | setCalc : Calm .setCalc
  | setRxack : Calm .setRxack
  | cksumStageA : Calm .cksumStageA
  | cksumStageB : Calm .cksumStageB
  | matchB : Calm .matchB
  | matchStageA : Calm .matchStageA
  | matchStageB : Calm .matchStageB
  | count (n : Nat) : Calm (.count n)
  | countN : Calm .countN
  | countLen : Calm .countLen
  | finish (c : ResultCode) : Calm (.finish c)
  | finishMatchB : Calm .finishMatchB

theorem Block.flows_of_calm (b : Block) {l : Line} (h : l.Calm) : b.flows l = false := by
  cases h <;> rfl

/-- A calm line does alike to blocks that differ only in what edges change. -/
theorem Block.core_runLine (b : Block) {l : Line} (rest : List Line) (hl : l.Calm) :
    (b.runLine l rest).core = (b.core.runLine l rest).core := by
  cases hl with
  | delay d =>
    have hticks : b.core.ticks d = b.ticks d := by cases d <;> rfl
    simp only [Block.runLine, Block.delayCycle, hticks, show b.core.tmr = b.tmr from rfl,
      show b.core.regs.tickdiv = b.regs.tickdiv from rfl]
    split
    · rfl
    · split
      · rfl
      · rw [Block.core_goto, Block.core_goto]; rfl
  | testOverrun =>
    simp only [Block.runLine, show b.core.seq = b.seq from rfl]
    split <;> rw [Block.core_goto, Block.core_goto] <;> rfl
  | loadSh v | armSh v => cases v <;> simp only [Block.runLine, Block.core_goto] <;> rfl
  | finish c => exact b.core_finish c
  | finishMatchB => exact b.core_finish _
  | _ => (simp only [Block.runLine, Block.core_goto]; rfl)

theorem Block.core_runLine_congr {x y : Block} {l : Line} (rest : List Line) (hl : l.Calm) (h : x.core = y.core) :
    (x.runLine l rest).core = (y.runLine l rest).core := by
  rw [x.core_runLine rest hl, h, ← y.core_runLine rest hl]

/-- What a calm line does to the transport. -/
theorem Block.xp_runLine_congr {x y : Block} {l : Line} (rest : List Line) (hl : l.Calm) (h : x.core = y.core)
    (hxp : x.xp = y.xp) : (x.runLine l rest).xp = (y.runLine l rest).xp := by
  have hload (v : Src) : (x.loadSh v).xp = (y.loadSh v).xp := by
    have hsrc := Block.srcByte_of_core h v
    cases v <;> simp only [Block.loadSh, Src.index?, Block.setJ, hxp, hsrc]
  cases hl with
  | delay d => 
    obtain ⟨tmr, prog, he⟩ := x.delayCycle_eq (x.ticks d) (.delay d :: rest) rest
    obtain ⟨tmr', prog', he'⟩ := y.delayCycle_eq (y.ticks d) (.delay d :: rest) rest
    rw [Block.runLine, Block.runLine, he, he']
    exact hxp
  | loadSh v | armSh v => exact hload v
  | clearDone => exact congrArg (fun t : Xport => { t with byteDone := false }) hxp
  | arm => exact congrArg (fun t : Xport => { t with armed := true }) hxp
  | testOverrun => simp only [Block.runLine]; split <;> split <;> exact hxp
  | finish c => simpa [Block.runLine] using hxp
  | finishMatchB => simpa [Block.runLine] using hxp
  | _ => exact hxp

/-- What a calm line does to data_o. -/
theorem Block.dataO_runLine_congr {x y : Block} {l : Line} (rest : List Line) (hl : l.Calm) (h : x.core = y.core) :
    (x.runLine l rest).out.dataO = x.out.dataO ∧ (y.runLine l rest).out.dataO = y.out.dataO ∨
      (x.runLine l rest).out.dataO = (y.runLine l rest).out.dataO := by
  cases hl with
  | delay d =>
    obtain ⟨tmr, prog, he⟩ := x.delayCycle_eq (x.ticks d) (.delay d :: rest) rest
    obtain ⟨tmr', prog', he'⟩ := y.delayCycle_eq (y.ticks d) (.delay d :: rest) rest
    rw [Block.runLine, Block.runLine, he, he']
    exact .inl ⟨rfl, rfl⟩
  | loadSh v | armSh v => cases v <;> exact .inl ⟨rfl, rfl⟩
  | driveBit0 v => exact .inr (congrArg (BitVec.getLsbD · 0) (Block.srcByte_of_core h v))
  | testOverrun => simp only [Block.runLine]; split <;> split <;> exact .inl ⟨rfl, rfl⟩
  | finish c => exact .inl (by simp [Block.runLine])
  | finishMatchB => exact .inl (by simp [Block.runLine])
  | _ => exact .inl ⟨rfl, rfl⟩

end Sys2Proof.Machine
end

section
/-! SUPPORT. How long a block keeps to the pseudocode run without a clock: a stray edge leaves it the lines' effects alone,
and without one its transport and DATA are the lines' too. -/

namespace Sys2Proof.Machine

/-- `z` has come where `x` stands. With no stray edge so far, and `c`, only `w0` has crossed DATA, the transport is that of
`x`, and so is data_o, but for a falling edge in which it took another level. -/
structure Block.Follows (c : Prop) (w0 w : Wire) (z x : Block) : Prop where
  core : z.core = x.core
  clean : c → z.event .strayClk = false → w = w0 ∧ z.xp = x.xp ∧
    (z.sync.sckPrev = true ∨ x.out.dataO = x.xp.sh.getLsbD 0 → z.out.dataO = x.out.dataO)

section
variable {c : Prop} {w0 w : Wire} {x z : Block} {l : Line} {rest : List Line}

theorem Block.Follows.refl (w : Wire) (x : Block) : x.Follows c w w x := ⟨rfl, fun _ _ => ⟨rfl, rfl, fun _ => rfl⟩⟩

/-- No bit is taken in a step of a responder that sees no rising edge, nor in a line of an initiator that takes none. -/
theorem Block.taken_eq_nil {b b' : Block} (hini : b.cfg.role = .initiator → ∀ d rest, b.seq.prog ≠ .run (.takeBit d :: rest))
    (hrsp : b.cfg.role = .responder → b.sync.sckPrev = true ∨ b'.sync.sckPrev = false) : b.taken b' = [] := by
  rw [Block.taken, if_neg]
  unfold Block.takesBit
  cases hrole : b.cfg.role with
  | initiator =>
    cases hp : b.seq.prog with
    | idle => simp [Prog.lines]
    | run ls =>
      cases ls with
      | nil => simp [Prog.lines]
      | cons l rest =>
        have hne (d : Dir) : l ≠ .takeBit d := fun h => hini hrole d rest (h ▸ hp)
        simp [Prog.lines, hne]
  | responder => obtain h | h := hrsp hrole <;> simp [h]

/-- The start of a clk cycle clears no STRAY_CLK. -/
theorem Block.strayClk_of_begun {p : Pins} {slip : Option Level} (h : (z.begun p slip).event .strayClk = false) :
    z.event .strayClk = false := by
  obtain ⟨ev, xp, d, q, rfl | rfl, he⟩ := (z.syncShift p slip).edgeEngine_eq
  · rw [Block.begun, he] at h
    exact h
  · rw [Block.begun, he] at h
    exact absurd ((z.event_raise .strayClk .strayClk).symm.trans h) (by simp)

/-- Whether CLK rises for the engine at the start of a clk cycle. -/
def Block.rises (z : Block) (p : Pins) (slip : Option Level) : Bool := !z.sync.sckPrev && (z.begun p slip).sync.sckPrev

/-- What a clk cycle's edge does to a block that is not armed, or that sees no rising edge. -/
theorem Block.begun_unarmed (p : Pins) (slip : Option Level) (harmed : z.xp.armed = true → z.rises p slip = false)
    (hstray : (z.begun p slip).event .strayClk = false) :
    (z.begun p slip).xp = z.xp ∧
      ((z.begun p slip).out.dataO = z.out.dataO ∧ ((z.begun p slip).sync.sckPrev = true → z.sync.sckPrev = true) ∨
        (z.begun p slip).sync.sckPrev = false ∧ (z.begun p slip).out.dataO = z.xp.sh.getLsbD 0) ∧
      (z.cfg.role = .responder → z.sync.sckPrev = true ∨ (z.begun p slip).sync.sckPrev = false) := by
  cases hrole : z.cfg.role with
  | initiator =>
    rw [Block.begun_of_initiator hrole] at hstray ⊢
    exact ⟨rfl, .inl ⟨rfl, id⟩, nofun⟩
  | responder =>
    cases hprev : z.sync.sckPrev <;> cases hnow : lastStage (shiftChain p.sck z.sync.sck)
    · rw [Block.begun_of_no_edge hrole (hprev.trans hnow.symm)] at hstray ⊢
      exact ⟨rfl, .inl ⟨rfl, fun h => hnow.symm.trans h⟩, fun _ => .inr hnow⟩
    · have hrises : z.rises p slip = true := by
        rw [Block.rises, hprev, ((z.begun_sync p slip).2.2 hrole).2, hnow]
        rfl
      have hunarmed : z.xp.armed = false := by
        cases ha : z.xp.armed with
        | false => rfl
        | true => cases hrises.symm.trans (harmed ha)
      rw [Block.begun_of_rise hrole hprev hnow, Block.event_strayClk_engineRise] at hstray
      simp [Block.withSync, hunarmed] at hstray
    · rw [Block.begun_of_fall hrole hprev hnow] at hstray ⊢
      unfold Block.engineFall
      by_cases hoe : (z.withSync (z.sync.shifted p slip)).out.dataOe = true
      · rw [if_pos hoe]
        exact ⟨rfl, .inr ⟨hnow, rfl⟩, fun _ => .inl rfl⟩
      · rw [if_neg hoe]
        exact ⟨rfl, .inl ⟨rfl, fun _ => rfl⟩, fun _ => .inl rfl⟩
    · rw [Block.begun_of_no_edge hrole (hprev.trans hnow.symm)] at hstray ⊢
      exact ⟨rfl, .inl ⟨rfl, fun _ => rfl⟩, fun _ => .inl rfl⟩

/-- The start of a clk cycle of such a block leaves it where it stands. -/
theorem Block.Follows.begun (h : z.Follows c w0 w x) (p : Pins) (slip : Option Level)
    (harmed : x.xp.armed = true → z.rises p slip = false) :
    (z.begun p slip).Follows c w0 w x := by
  refine ⟨(z.core_begun p slip).trans h.core, fun hc hstray => ?_⟩
  obtain ⟨hw, hxp, hdata⟩ := h.clean hc (Block.strayClk_of_begun hstray)
  obtain ⟨hxp', hedge, -⟩ := Block.begun_unarmed p slip (hxp ▸ harmed) hstray
  refine ⟨hw, hxp'.trans hxp, fun hor => ?_⟩
  obtain ⟨hd, hprev⟩ | ⟨hprev, hd⟩ := hedge
  · exact hd.trans (hdata (hor.imp_left hprev))
  · obtain hor | hor := hor
    · exact absurd (hor.symm.trans hprev) (by decide)
    · rw [hd, hxp, hor]

/-- Nothing crosses DATA in a step of such a block with no stray edge, unless an initiator takes a bit. -/
theorem Block.Follows.taken_eq_nil {z' : Block} {p : Pins} {slip : Option Level} (h : z.Follows c w0 w x)
    (harmed : x.xp.armed = true → z.rises p slip = false) (hc : c) (hstray : (z.begun p slip).event .strayClk = false)
    (hsync : z'.sync.sckPrev = (z.begun p slip).sync.sckPrev) (hp : ∀ d rest', x.seq.prog ≠ .run (.takeBit d :: rest')) :
    z.taken z' = [] := by
  obtain ⟨-, hxp, -⟩ := h.clean hc (Block.strayClk_of_begun hstray)
  obtain ⟨-, -, hedge⟩ := Block.begun_unarmed p slip (hxp ▸ harmed) hstray
  refine Block.taken_eq_nil (fun _ d rest' hd => hp d rest' ?_) fun hrole => (hedge hrole).imp_right fun hprev => hsync.trans hprev
  rw [← hd, Block.seq_of_core h.core]

/-- A line that loads no byte keeps SH. -/
theorem Block.sh_runLine (b : Block) (rest : List Line) (hl : l.Calm) (hload : ∀ v, l ≠ .loadSh v ∧ l ≠ .armSh v) :
    (b.runLine l rest).xp.sh = b.xp.sh := by
  cases hl with
  | delay d => obtain ⟨tmr, prog, he⟩ := b.delayCycle_eq (b.ticks d) (.delay d :: rest) rest; rw [Block.runLine, he]
  | loadSh v => exact absurd rfl (hload v).1
  | armSh v => exact absurd rfl (hload v).2
  | testOverrun => simp only [Block.runLine]; split <;> rfl
  | finish c | finishMatchB => simp [Block.runLine]
  | _ => rfl

/-- No line raises STRAY_CLK or clears it. -/
theorem Block.strayClk_runLine (b : Block) (l : Line) (rest : List Line) :
    (b.runLine l rest).event .strayClk = b.event .strayClk := by
  cases l with
  | delay d => obtain ⟨tmr, prog, he⟩ := b.delayCycle_eq (b.ticks d) (.delay d :: rest) rest; rw [Block.runLine, he]; rfl
  | hold => obtain ⟨hph, prog, he⟩ := b.holdCycle_eq (.hold :: rest) rest; rw [Block.runLine, he]; rfl
  | loadSh v | armSh v => cases v <;> rfl
  | awaitHs | awaitByte | testOverrun => simp only [Block.runLine]; split <;> rfl
  | waitFinish =>
    simp only [Block.runLine]
    split
    · exact b.event_strayClk_finish _
    · rfl
  | xportSck => simp only [Block.runLine]; split <;> rfl
  | driveOeFinish | driveHsFinish | finish | finishMatchB | finishMatchData => exact Block.event_strayClk_finish _ _
  | _ => rfl

section
variable (h : z.Follows c w0 w x) (hr : x.rstN = true) (hm : x.seq.mid = false)
variable (hp : x.seq.prog = .run (l :: rest)) (hl : l.Calm) (p : Pins) (slip : Option Level)
variable (harmed : x.xp.armed = true → z.rises p slip = false)
include h hr hm hp hl

/-- A clk cycle of a calm line. -/
theorem Block.Follows.clkStep_eq : z.clkStep p slip = ((z.begun p slip).runLine l rest).latchPrev :=
  Block.clkStep_line p slip ((Block.rstN_of_core h.core).trans hr) ((congrArg Seq.mid (Block.seq_of_core h.core)).trans hm)
    ((congrArg Seq.prog (Block.seq_of_core h.core)).trans hp) (Block.flows_of_calm _ hl)

include harmed

/-- A line taken, data_o being seen as `e`: as it is, or as the line leaves it with SH kept. -/
theorem Block.Follows.lineAs (e : Level) (he : e = (z.clkStep p slip).out.dataO ∨
    e = (x.runLine l rest).out.dataO ∧ (x.runLine l rest).xp.sh = x.xp.sh) :
    (z.clkStep p slip).Follows c w0 (w ++ z.taken (z.clkStep p slip)) ((x.runLine l rest).driveData e) := by
  have hb := h.begun p slip harmed
  have hstep := h.clkStep_eq hr hm hp hl p slip
  refine ⟨?_, fun hc hstray => ?_⟩
  · rw [hstep]
    exact Block.core_runLine_congr rest hl hb.core
  · have hz : (z.begun p slip).event .strayClk = false := by
      rw [← Block.strayClk_runLine _ l rest]
      rwa [hstep] at hstray
    obtain ⟨rfl, hxp', hdata⟩ := hb.clean hc hz
    refine ⟨?_, ?_, fun hor => ?_⟩
    · rw [h.taken_eq_nil (p := p) (slip := slip) harmed hc hz (by rw [hstep, Block.latchPrev_sync, Block.sync_runLine])
        fun d rest' hd => by rw [hp] at hd; cases hd; cases hl]
      exact List.append_nil _
    · rw [hstep]
      exact Block.xp_runLine_congr rest hl hb.core hxp'
    · obtain he | ⟨he, hsh⟩ := he
      · exact he.symm
      · refine Eq.trans ?_ he.symm
        rw [hstep]
        obtain ⟨hzd, hxd⟩ | hd := Block.dataO_runLine_congr rest hl hb.core
        · refine hzd.trans ((hdata (hor.imp (fun hprev => ?_) fun hbit => ?_)).trans hxd.symm)
          · rwa [hstep, Block.latchPrev_sync, Block.sync_runLine] at hprev
          · replace hbit : e = (x.runLine l rest).xp.sh.getLsbD 0 := hbit
            rw [← hxd, ← he, hbit, hsh]
        · exact hd

/-- A line that loads no byte. -/
theorem Block.Follows.line (hload : ∀ v, l ≠ .loadSh v ∧ l ≠ .armSh v) :
    (z.clkStep p slip).Follows c w0 (w ++ z.taken (z.clkStep p slip)) (x.runLine l rest) :=
  h.lineAs hr hm hp hl p slip harmed (x.runLine l rest).out.dataO (.inr ⟨rfl, x.sh_runLine rest hl hload⟩)

end

end

end Sys2Proof.Machine
end

section
/-! SUPPORT. What it takes to follow a program to its end: a claim that some or all runs of a block end well, by the ways it can
be reached; and how the lines of an operation reach it. -/

namespace Sys2Proof.Machine

/-- `x` is out of reset between clk cycles and between byte transfers; if its run is not `led`, it is not armed. -/
structure Block.Ready (role : Role) (led : Prop) (x : Block) : Prop where
  rstN : x.rstN = true
  mid : x.seq.mid = false
  isRole : x.cfg.role = role
  tmr : x.tmr = .reset
  armed : x.xp.armed = true → led
  bitcnt : role = .responder → x.xp.bitcnt = 0#3

/-- Eight bit periods and the settle delay (40_transport.md R172), with `rest` to follow. -/
def transferLines (dir : Dir) (rest : List Line) : List Line :=
  (List.replicate 8 (bitPeriod dir)).flatten ++ .delay .byteSettle :: rest

/-- `x` is armed for a byte, which it sends if it drives DATA (40_transport.md R175). -/
structure Block.Armed (dir : Dir) (v : Byte) (x : Block) : Prop where
  armed : x.xp.armed = true
  bitcnt : x.xp.bitcnt = 0#3
  byteDone : x.xp.byteDone = false
  dataOe : x.out.dataOe = dir.drives
  sends : dir = .wr → x.xp.sh = v ∧ x.out.dataO = v.getLsbD 0

/-- The byte that crosses DATA in a transfer that leaves `u` in SH. -/
def Dir.crossing (dir : Dir) (v u : Byte) : Byte :=
  match dir with
  | .wr => v
  | .rd => u

/-- A responder after a byte that left `u` in SH and `e` on data_o, the byte taken into b. -/
def Block.tookByte (x : Block) (u : Byte) (e : Level) : Block :=
  { x with
    xp := ⟨u, 0#3, false, false, x.xp.hph⟩
    out.dataO := e
    seq.locs.b := u }

/-- `T n w z` says that a block of the role at `z` is to come to its end as `Q` says, `w` having crossed DATA: in all its runs,
or in one whose pins may be chosen once `n` more clk cycles are over. The fields are the ways to it. Byte `i` of those it takes
is one that `brings i` allows; a peer is `quiet` if it asserts its handshake line in none of the `n` cycles. In a run that is
`led`, CLK does not rise but for a byte. -/
structure Game (role : Role) (led c quiet : Prop) (brings : Nat → Byte → Prop) (Q : Wire → Block → Prop)
    (T : Nat → Wire → Block → Prop) : Prop where
  /-- The invariant may be assumed. -/
  given {n : Nat} {w : Wire} {z : Block} : (z.Inv → z.rstN = true → T n w z) → T n w z
  /-- Any step may come next. -/
  step {n : Nat} {w : Wire} {z : Block} : z.busy = true → z.seq.mid = false →
    (∀ p slip, (led → z.rises p slip = false) → T (n - 1) (w ++ z.taken (z.clkStep p slip)) (z.clkStep p slip)) → T n w z
  /-- The end. -/
  done {w : Wire} {z : Block} : z.busy = false → Q w z → T 0 w z
  /-- An await of the handshake line. -/
  await {n : Nat} {w0 w : Wire} {x z : Block} {a : Bool} {rest : List Line} : x.Ready role led →
    z.Follows c w0 w (x.goto (.awaitHs a :: rest)) →
    (∀ m w' z', m ≤ n → (quiet → a = true → m = 0) → z'.Follows c w0 w' (x.goto rest) → T m w' z') → T n w z
  /-- A byte that an initiator reads. -/
  read {i : Nat} {w0 w : Wire} {x z : Block} {rest : List Line} : role = .initiator → x.Ready role led → x.out.dataOe = false →
    z.Follows c w0 w (x.goto (transferLines .rd rest)) →
    (∀ m w' z', brings i m.sh → m.sck = true →
      z'.Follows c (w0 ++ wireBytes false [m.sh]) w' ((x.moving m []).goto rest) → T 0 w' z') → T 0 w z
  /-- A byte that a responder is armed for. -/
  byte {n i : Nat} {w0 w : Wire} {x z : Block} {dir : Dir} {v : Byte} {rest : List Line} : role = .responder →
    x.rstN = true → x.seq.mid = false → x.cfg.role = role → x.Armed dir v →
    z.Follows c w0 w (x.goto (.driveHs true :: (awaitByteLines ++ rest))) →
    (∀ u e w' z', (dir = .rd → brings i u) → (dir = .wr → e = v.getLsbD 7) →
      z'.Follows c (w0 ++ wireBytes dir.drives [dir.crossing v u]) w'
        (((x.driveHs (hsLevel x.cfg true)).tookByte u e).goto rest) → T 0 w' z') → T n w z

/-! ## Lines between the bytes -/

/-- The effect of a line, the position aside. -/
def Block.did (b : Block) (l : Line) : Block := { b.runLine l [] with seq.prog := b.seq.prog }

section
variable (b : Block)

@[simp] theorem Block.did_driveOe (v : Bool) : b.did (.driveOe v) = b.driveOe v := rfl
@[simp] theorem Block.did_driveHs (a : Bool) : b.did (.driveHs a) = b.driveHs (hsLevel b.cfg a) := rfl
@[simp] theorem Block.did_takeSh : b.did .takeSh = b.holding b.xp.sh := rfl
@[simp] theorem Block.did_clearDone : b.did .clearDone = { b with xp.byteDone := false } := rfl
@[simp] theorem Block.did_driveBit0 (v : Src) : b.did (.driveBit0 v) = b.driveData ((b.srcByte v).getLsbD 0) := rfl
@[simp] theorem Block.did_arm : b.did .arm = { b with xp.armed := true } := rfl
@[simp] theorem Block.did_clearAcc (a : Acc) : b.did (.clearAcc a) = b.withLocs (b.seq.locs.setAcc a 0#8) := rfl
@[simp] theorem Block.did_addBuf (a : Acc) (j : Nat) : b.did (.addBuf a j) =
    (b.withLocs (b.seq.locs.setAcc a (b.seq.locs.accVal a + b.readBuf j))).setJ j := rfl
@[simp] theorem Block.did_addB : b.did .addB = b.withLocs { b.seq.locs with acc := b.seq.locs.acc + b.seq.locs.b } := rfl
@[simp] theorem Block.did_storeB (j : Nat) : b.did (.storeB j) = (b.writeBuf j b.seq.locs.b).setJ j := rfl
@[simp] theorem Block.did_setN : b.did .setN = b.withLocs { b.seq.locs with n := b.seq.argv } := rfl
@[simp] theorem Block.did_setCap : b.did .setCap =
    b.withLocs { b.seq.locs with cap := BitVec.ofNat 16 (min b.seq.argv.toNat b.cfg.bufSize.bytes) } := rfl
@[simp] theorem Block.did_setLo : b.did .setLo = b.withLocs { b.seq.locs with lo := b.seq.locs.b } := rfl
@[simp] theorem Block.did_setHi : b.did .setHi = b.withLocs { b.seq.locs with hi := b.seq.locs.b } := rfl
@[simp] theorem Block.did_joinLen : b.did .joinLen = b.withLocs { b.seq.locs with len := b.seq.locs.hi ++ b.seq.locs.lo } := rfl
@[simp] theorem Block.did_widenLen : b.did .widenLen = b.withLocs { b.seq.locs with len := b.seq.locs.b.setWidth 16 } := rfl
@[simp] theorem Block.did_setAdvlen : b.did .setAdvlen = { b with regs.advlen := b.seq.locs.len } := rfl
@[simp] theorem Block.did_setCalc : b.did .setCalc = { b with regs.cksum.calcA := b.seq.locs.acc } := rfl
@[simp] theorem Block.did_setRxack : b.did .setRxack = { b with regs.cksum.rxackA := b.seq.locs.b } := rfl
@[simp] theorem Block.did_cksumStageA : b.did .cksumStageA =
    { b with regs.cksum.calcA := b.seq.locs.accA, regs.cksum.rxackA := b.readBuf 4 } := rfl
@[simp] theorem Block.did_cksumStageB : b.did .cksumStageB =
    { b with regs.cksum.calcB := b.seq.locs.accB, regs.cksum.rxackB := b.readBuf 16 } := rfl
@[simp] theorem Block.did_matchB : b.did .matchB =
    { b with regs.result.isMatch := decide (b.seq.locs.b = b.seq.locs.acc) } := rfl
@[simp] theorem Block.did_matchStageA : b.did .matchStageA =
    { b with regs.result.isMatch := decide (b.readBuf 4 = b.seq.locs.accA) } := rfl
@[simp] theorem Block.did_matchStageB : b.did .matchStageB =
    { b with regs.result.isMatchB := decide (b.readBuf 16 = b.seq.locs.accB) } := rfl
@[simp] theorem Block.did_count (n : Nat) : b.did (.count n) = { b with regs.result.count := BitVec.ofNat 16 n } := rfl
@[simp] theorem Block.did_countN : b.did .countN = { b with regs.result.count := b.seq.locs.n } := rfl
@[simp] theorem Block.did_countLen : b.did .countLen = { b with regs.result.count := b.seq.locs.len } := rfl

/-- Loading a byte sets SH and perhaps the for variable. -/
theorem Block.did_load (v : Src) : ∃ j, b.did (.loadSh v) = { b with xp.sh := b.srcByte v, seq.locs.j := j } ∧
    b.did (.armSh v) = { b with xp.sh := b.srcByte v, seq.locs.j := j } := by
  cases v with
  | buf k => exact ⟨BitVec.ofNat 16 k, rfl, rfl⟩
  | _ => exact ⟨b.seq.locs.j, rfl, rfl⟩

end

/-- The line has an effect and goes on. -/
inductive Line.Plain : Line → Prop
  | driveOe (v : Bool) : Plain (.driveOe v)
  | driveHs (a : Bool) : Plain (.driveHs a)
  | loadSh (v : Src) : Plain (.loadSh v)
  | armSh (v : Src) : Plain (.armSh v)
  | clearDone : Plain .clearDone
  | driveBit0 (v : Src) : Plain (.driveBit0 v)
  | arm : Plain .arm
  | clearAcc (a : Acc) : Plain (.clearAcc a)
  | addBuf (a : Acc) (j : Nat) : Plain (.addBuf a j)
  | addB : Plain .addB
  | storeB (j : Nat) : Plain (.storeB j)
  | setN : Plain .setN
  | setCap : Plain .setCap
  | setLo : Plain .setLo
  | setHi : Plain .setHi
  | joinLen : Plain .joinLen
  | widenLen : Plain .widenLen
  | setAdvlen : Plain .setAdvlen
  | setCalc : Plain .setCalc
  | setRxack : Plain .setRxack
  | cksumStageA : Plain .cksumStageA
  | cksumStageB : Plain .cksumStageB
  | matchB : Plain .matchB
  | matchStageA : Plain .matchStageA
  | matchStageB : Plain .matchStageB
  | count (n : Nat) : Plain (.count n)
  | countN : Plain .countN
  | countLen : Plain .countLen

theorem Line.Plain.calm {l : Line} (h : l.Plain) : l.Calm := by
  cases h <;> constructor

theorem Block.goto_plain (b : Block) {l : Line} (rest : List Line) (h : l.Plain) :
    (b.goto (l :: rest)).seq.prog = .run (l :: rest) ∧ (b.goto (l :: rest)).runLine l rest = (b.did l).goto rest := by
  have hload (ls : List Line) (v : Src) : ((b.goto ls).loadSh v).goto rest = (b.did (.loadSh v)).goto rest :=
    Block.goto_congr (by cases v <;> rfl) rest
  cases h with
  | loadSh v | armSh v => exact ⟨rfl, hload _ v⟩
  | _ => exact ⟨rfl, by simp only [Block.runLine]; exact Block.goto_congr (by rfl) rest⟩

theorem Block.driveData_goto (b : Block) (e : Level) (ls : List Line) : (b.goto ls).driveData e = (b.driveData e).goto ls := by
  have hdrop : (b.driveData e).dropZero ls = b.dropZero ls := Block.dropZero_congr (fun d => by cases d <;> rfl) ls
  rw [Block.goto, Block.goto, hdrop]
  rfl

/-- Only `arm` arms. -/
theorem Block.Ready.did {role : Role} {led : Prop} {b : Block} {l : Line} (h : b.Ready role led) (hl : l.Plain) (harm : l ≠ .arm) :
    (b.did l).Ready role led := by
  obtain ⟨hr, hm, hrole, ht, harmed, hcnt⟩ := h
  cases hl with
  | loadSh v | armSh v => cases v <;> exact ⟨hr, hm, hrole, ht, harmed, hcnt⟩
  | arm => exact absurd rfl harm
  | _ => exact ⟨hr, hm, hrole, ht, harmed, hcnt⟩

theorem Block.ready_goto {role : Role} {led : Prop} {b : Block} {ls : List Line} : (b.goto ls).Ready role led ↔ b.Ready role led :=
  ⟨fun ⟨hr, hm, hrole, ht, harmed, hcnt⟩ => ⟨hr, hm, hrole, ht, harmed, hcnt⟩,
    fun ⟨hr, hm, hrole, ht, harmed, hcnt⟩ => ⟨hr, hm, hrole, ht, harmed, hcnt⟩⟩

/-! ## Reaching the end from a place in the program -/

/-- The block with its delay timers at rest. -/
def Block.delayed (b : Block) : Block := { b with tmr := .reset }

/-- The claim `T` is met from wherever `x` stands, `w0` having crossed DATA; if `s`, the clk cycles whose pins may not be
chosen are over. -/
def Block.Reaches (role : Role) (led c : Prop) (T : Nat → Wire → Block → Prop) (s : Prop) (w0 : Wire) (x : Block) : Prop :=
  x.Ready role led → ∀ n w z, n ≤ 14 → (s → n = 0) → z.Follows c w0 w x → T n w z

section
variable {role : Role} {led c quiet : Prop} {brings : Nat → Byte → Prop} {Q : Wire → Block → Prop}
variable {T : Nat → Wire → Block → Prop} (g : Game role led c quiet brings Q T)
variable {s : Prop} {w0 : Wire} {x : Block} {l : Line} {rest : List Line}
include g

/-- A clk cycle of a calm line. -/
theorem Game.calm {n : Nat} {w : Wire} {z : Block} (hx : x.Ready role led) (hp : x.seq.prog = .run (l :: rest))
    (hz : z.Follows c w0 w x) (h : ∀ p slip, (x.xp.armed = true → z.rises p slip = false) →
      T (n - 1) (w ++ z.taken (z.clkStep p slip)) (z.clkStep p slip)) : T n w z := by
  have hseq : z.seq = x.seq := Block.seq_of_core hz.core
  exact g.step (by simp [Block.busy, hseq, hp]) (by rw [hseq, hx.mid]) fun p slip hled => h p slip fun harmed => hled (hx.armed harmed)

/-- A line that neither loads a byte nor arms. -/
theorem Game.plain (hl : l.Plain) (hload : ∀ v, l ≠ .loadSh v ∧ l ≠ .armSh v) (harm : l ≠ .arm)
    (h : ((x.did l).goto rest).Reaches role led c T s w0) : (x.goto (l :: rest)).Reaches role led c T s w0 := by
  intro hx n w z hn hs hz
  obtain ⟨hp, hrun⟩ := x.goto_plain rest hl
  refine g.calm hx hp hz fun p slip harmed => ?_
  have hline := hz.line hx.rstN hx.mid hp hl.calm p slip harmed hload
  rw [hrun] at hline
  exact h (Block.ready_goto.mpr ((Block.ready_goto.mp hx).did hl harm)) _ _ _ (by omega) (fun hs' => by rw [hs hs']) hline

/-- A line that loads a byte, whatever a falling edge left on data_o before it. -/
theorem Game.load (hl : l.Plain) (harm : l ≠ .arm)
    (h : ∀ e, (((x.did l).driveData e).goto rest).Reaches role led c T s w0) :
    (x.goto (l :: rest)).Reaches role led c T s w0 := by
  intro hx n w z hn hs hz
  obtain ⟨hp, hrun⟩ := x.goto_plain rest hl
  refine g.calm hx hp hz fun p slip hedge => ?_
  have hline := hz.lineAs hx.rstN hx.mid hp hl.calm p slip hedge _ (.inl rfl)
  rw [hrun, Block.driveData_goto] at hline
  obtain ⟨hr, hm, hrole, ht, harmed, hcnt⟩ := (Block.ready_goto.mp hx).did hl harm
  exact h (z.clkStep p slip).out.dataO (Block.ready_goto.mpr ⟨hr, hm, hrole, ht, harmed, hcnt⟩) _ _ _ (by omega)
    (fun hs' => by rw [hs hs']) hline

omit g in
/-- Passing a delay takes the timers back to rest, and nothing else. -/
theorem Block.delayed_goto (h : x.tmr = .reset) : x.delayed.goto rest = x.goto rest :=
  Block.goto_congr (by rw [Block.delayed, ← h]) rest

/-- The rest of a delay. -/
theorem Game.delaying {d : Delay} {k : Nat} : ∀ {x : Block} {n : Nat} {w : Wire} {z : Block}, x.Delaying d rest k →
    x.rstN = true → x.seq.mid = false → (x.xp.armed = true → led) → n ≤ 14 → (s → n = 0) → z.Follows c w0 w x →
    (∀ n w z, n ≤ 14 → (s → n = 0) → z.Follows c w0 w (x.delayed.goto rest) → T n w z) →
    T n w z := by
  induction k with
  | zero =>
    intro x n w z hdel _ _ _ hn hs hz h
    cases hdel with | past hp ht =>
    have hself : x.goto rest = x := by rw [Block.goto, ← hp]
    exact h n w z hn hs (by rwa [Block.delayed_goto ht, hself])
  | succ k ih =>
    intro x n w z hdel hr hm harmed hn hs hz h
    have hp : x.seq.prog = .run (.delay d :: rest) := by cases hdel with | going hp => exact hp
    have hseq : z.seq = x.seq := Block.seq_of_core hz.core
    refine g.step (by simp [Block.busy, hseq, hp]) (by rw [hseq, hm]) fun p slip hled => ?_
    have hline := hz.line hr hm hp (.delay d) p slip (fun h => hled (harmed h)) fun v => ⟨nofun, nofun⟩
    have hdel' := hdel.delayCycle
    obtain ⟨tmr, prog, heq⟩ := x.delayCycle_eq (x.ticks d) (.delay d :: rest) rest
    rw [Block.runLine] at hline
    rw [heq] at hline hdel'
    refine ih hdel' hr hm harmed (by omega) (fun hs' => by rw [hs hs']) hline fun n w z hn hs hz => h n w z hn hs ?_
    rwa [Block.goto_congr (y := x.delayed) (by rfl) rest] at hz

/-- A delay. -/
theorem Game.delay {d : Delay} (h : (x.goto rest).Reaches role led c T s w0) :
    (x.goto (.delay d :: rest)).Reaches role led c T s w0 := by
  intro hx n w z hn hs hz
  have hx' := Block.ready_goto.mp hx
  refine g.delaying (Block.delaying_of_prog hx.tmr (Block.goto_prog x _)) hx.rstN hx.mid hx.armed hn hs hz
    fun n w z hn hs hz => h (Block.ready_goto.mpr hx') n w z hn hs ?_
  rw [← Block.delayed_goto hx'.tmr]
  rwa [Block.goto_congr (y := x.delayed) (by rfl) rest] at hz

end

end Sys2Proof.Machine
end

section
/-! SUPPORT. Awaits, an initiator's byte transfers and the end of an operation, on the way to the end of a program. -/

namespace Sys2Proof.Machine

section
variable {role : Role} {led c quiet : Prop} {brings : Nat → Byte → Prop} {Q : Wire → Block → Prop}
variable {T : Nat → Wire → Block → Prop} (g : Game role led c quiet brings Q T)
variable {s : Prop} {i : Nat} {w0 w : Wire} {x z : Block} {ls rest : List Line}
include g

/-- An await of the handshake line. -/
theorem Game.awaitHs {a : Bool} (h : (x.goto rest).Reaches role led c T (s ∨ quiet ∧ a = true) w0) :
    (x.goto (.awaitHs a :: rest)).Reaches role led c T s w0 := fun hx n _ _ hn hs hz =>
  g.await (Block.ready_goto.mp hx) hz fun m w' z' hm hquiet hz' => h (Block.ready_goto.mpr (Block.ready_goto.mp hx)) m w' z' (by omega)
    (fun hor => hor.elim (fun hs' => by have := hs hs'; omega) fun ⟨hq, ha⟩ => hquiet hq ha) hz'

/-- An initiator's steps along a schedule, whatever they see. -/
theorem Game.along (ps : List Pins) : ∀ {n : Nat} {w : Wire} {z : Block}, z.cfg.role = .initiator →
    z.Along False (fun _ w' z' => T (n - ps.length) w' z') ps.length ps w → T n w z := by
  induction ps with
  | nil => exact fun _ h => h
  | cons p ps ih =>
    rintro n w z hrole ⟨hbusy, hnext⟩
    refine g.given fun hinv _ => g.step hbusy (hinv.oneStep hrole) fun q slip _ => ?_
    refine ih ((congrArg Config.role (z.cfg_clkStep q slip)).trans hrole) ?_
    have hsub : n - 1 - ps.length = n - (p :: ps).length := by rw [List.length_cons]; omega
    rw [hsub]
    exact hnext q slip nofun

omit g in
theorem Block.Ready.moving (h : x.Ready role led) (hrole : role = .initiator) (m : Moving) : (x.moving m ls).Ready role led :=
  ⟨h.rstN, h.mid, h.isRole, h.tmr, h.armed, fun hrsp => by cases hrole.symm.trans hrsp⟩

omit g in
/-- The lines of a transfer, as the position of a block that stands there. -/
theorem Block.Follows.prog_transfer {dir : Dir} (h : z.Follows c w0 w (x.goto (transferLines dir rest))) :
    z = ((z.moving z.move []).withSync z.sync).goto (transferLines dir rest) := by
  have hp : z.seq.prog = .run (transferLines dir rest) := by
    rw [Block.seq_of_core h.core]
    cases dir <;> rfl
  calc z = { z with seq.prog := .run (transferLines dir rest) } := by rw [← hp]
    _ = _ := by cases dir <;> rfl

omit g in
/-- An initiator's transfer in clk cycles, of a block that sees the schedule's pins if it is `alone`. -/
theorem Block.Follows.transferAlong {dir : Dir} {alone : Prop} {D : List Level} {ps : List Pins}
    {P : List Pins → Wire → Block → Prop} (hz : z.Follows c w0 w (x.goto (transferLines dir rest))) (hinv : z.Inv)
    (hr : z.rstN = true) (hini : z.cfg.role = .initiator) (hbrings : z.sync.Brings alone .initiator D [] ps)
    (h : ∀ us y ps', us.length = 8 →
      (alone → ∀ k < 8, us.getD k false = D.getD (k * z.bitCycles dir + z.lowHalf dir + 2) false) →
      P ps' (w ++ z.move.wire dir z.out.dataOe us) (((z.moving (z.move.bits dir us) []).withSync y).goto rest)) :
    z.Along alone P (0 + z.delayCycles z.regs.byteSettle + 8 * z.bitCycles dir) ps w := by
  have hseq : z.seq = (x.goto (transferLines dir rest)).seq := Block.seq_of_core hz.core
  suffices hall : (((z.moving z.move []).withSync z.sync).goto (transferLines dir rest)).Along alone P
      (0 + z.delayCycles z.regs.byteSettle + 8 * z.bitCycles dir) ps w by rwa [← hz.prog_transfer] at hall
  exact .transfer (m := z.move) hr (hinv.oneStep hini) hini hbrings (hinv.holdRest (by rw [hseq]; cases dir <;> rfl))
    (hinv.timersRest (by rw [hseq]; cases dir <;> rfl)) fun us y ps' hlen _ hus => h us y ps' hlen hus

omit g in
/-- What a transfer moves, it moves alike. -/
theorem Block.Follows.moved (h : z.Follows c w0 w (x.goto ls)) (m : Moving) (y : Sync) (v : Wire) :
    (((z.moving m []).withSync y).goto rest).Follows c (w0 ++ v) (w ++ v) ((x.moving m []).goto rest) := by
  refine ⟨?_, fun hc hstray => ?_⟩
  · have hmoving := congrArg (fun b : Block => (b.moving m []).core) h.core
    replace hmoving : ((z.moving m []).withSync y).core = (x.moving m []).core := hmoving
    rw [Block.core_goto, Block.core_goto, hmoving]
  · obtain ⟨rfl, hxp, -⟩ := h.clean hc hstray
    exact ⟨rfl, congrArg (fun t : Xport => (⟨m.sh, m.bitcnt, t.byteDone, t.armed, m.hph⟩ : Xport)) hxp, fun _ => rfl⟩

omit g in
/-- The bits written are those of the byte in SH, first to last. -/
theorem Moving.wire_wr {v : Byte} (us : List Level) : ∀ {m : Moving} {k : Nat}, HoldsFrom v m.sh k → k + us.length ≤ 8 →
    m.wire .wr true us = (List.range' k us.length).map fun j => (true, v.getLsbD j) := by
  induction us with
  | nil => exact fun _ _ => rfl
  | cons u us ih =>
    intro m k hsh hlen
    rw [List.length_cons] at hlen ⊢
    rw [Moving.wire, List.range'_succ, List.map_cons, ih (m := m.bit .wr u) (hsh.shiftIn _) (by omega), if_pos rfl]
    exact congrArg₂ (fun a b => (true, a) :: b) (hsh.bit (by omega)) rfl

omit g in
/-- The bits read are those in SH in the end, first to last. -/
theorem Moving.wire_rd {us : List Level} (m : Moving) (h : us.length = 8) :
    m.wire .rd false us = wireBytes false [(m.bits .rd us).sh] := by
  have hwire : ∀ (us : List Level) (m : Moving), m.wire .rd false us = us.map fun u => (false, u) := by
    intro us
    induction us with
    | nil => exact fun _ => rfl
    | cons u us ih => exact fun m => congrArg ((false, u) :: ·) (ih _)
  obtain ⟨hsh, -⟩ := Moving.bits_rd (m := m) (k := 0) (f := fun j => us.getD j false) us (.zero _ _) (by omega)
    fun j _ => by rw [Nat.zero_add]
  rw [Nat.zero_add, h] at hsh
  have hlevels : byteLevels (m.bits .rd us).sh = us := by
    refine List.ext_getElem (by simp [byteLevels, h]) fun j hj hj' => ?_
    have hbit := hsh j (by omega)
    rw [Nat.sub_self, Nat.zero_add] at hbit
    simpa [byteLevels, hj'] using hbit
  rw [hwire, wireBytes_singleton, hlevels]

/-- A byte that an initiator writes. It takes longer than the clk cycles whose pins may not be chosen. -/
theorem Game.write (hrole : role = .initiator) (hc : c) (hoe : x.out.dataOe = true)
    (h : ∀ m, m.sck = true → ((x.moving m []).goto rest).Reaches role led c T True (w0 ++ wireBytes true [x.xp.sh])) :
    (x.goto (transferLines .wr rest)).Reaches role led c T s w0 := by
  intro hx n w z hn hs hz
  have hx' := Block.ready_goto.mp hx
  refine g.given fun hinv hr => ?_
  have hcfg : z.cfg = x.cfg := Block.cfg_of_core (y := x.goto _) hz.core
  have hini : z.cfg.role = .initiator := by rw [hcfg, hx'.isRole, hrole]
  obtain ⟨-, hxp, -⟩ := hz.clean hc (hinv.initiator hini).2.2
  have hoe' : z.out.dataOe = true := (Block.dataOe_of_core (y := x.goto _) hz.core).trans hoe
  have hlong : 64 ≤ 8 * z.bitCycles .wr := by simp only [Block.bitCycles, Block.lowHalf, Block.highHalf]; omega
  set k := 0 + z.delayCycles z.regs.byteSettle + 8 * z.bitCycles .wr
  refine g.along (List.replicate k ⟨true, true, true⟩) hini ?_
  rw [List.length_replicate, show n - k = 0 by omega]
  refine hz.transferAlong (D := []) hinv hr hini ⟨False.elim, nofun⟩ fun us y ps hlen _ => ?_
  have hwire : z.move.wire .wr z.out.dataOe us = wireBytes true [x.xp.sh] := by
    have hsh : HoldsFrom x.xp.sh z.move.sh 0 := fun j _ => by rw [Nat.zero_add]; exact congrArg (·.sh.getLsbD j) hxp
    rw [hoe', Moving.wire_wr us hsh (by omega), hlen, wireBytes_singleton]
    rfl
  rw [hwire]
  exact h _ (Moving.bits_eight z.move hlen).1 (Block.ready_goto.mpr (hx'.moving hrole _)) 0 _ _ (by omega)
    (fun _ => rfl) (hz.moved _ y _)

/-- A byte that an initiator reads. -/
theorem Game.readByte (hrole : role = .initiator) (hs : s) (hoe : x.out.dataOe = false)
    (h : ∀ m, brings i m.sh → m.sck = true →
      ((x.moving m []).goto rest).Reaches role led c T True (w0 ++ wireBytes false [m.sh])) :
    (x.goto (transferLines .rd rest)).Reaches role led c T s w0 := by
  intro hx n w z hn hn0 hz
  obtain rfl := hn0 hs
  have hx' := Block.ready_goto.mp hx
  exact g.read hrole hx' hoe hz fun m w' z' hbrings hsck hz' =>
    h m hbrings hsck (Block.ready_goto.mpr (hx'.moving hrole _)) 0 _ _ (by omega) (fun _ => rfl) hz'

end

end Sys2Proof.Machine
end

section
/-! SUPPORT. A byte handshake cycle of an initiator (41_handshake.md R221), the overrun test and the end of an operation, on the
way to the end of a program. -/

namespace Sys2Proof.Machine

/-- A byte handshake cycle of a role (41_handshake.md R221, R222). -/
def cycleOf (role : Role) (dir : Dir) (v : Src) : List Line :=
  match role with
  | .initiator => cycleI dir v
  | .responder => cycleR dir v

/-- `x` after a byte cycle that left `e` on data_o, the transport at `t`, `u` in b, `d` in XferI's d and `j` in the for
variable. -/
def Block.cycled (x : Block) (dir : Dir) (e : Level) (t : Xport) (u : Byte) (d : Level) (j : Half) : Block :=
  { x with
    out := ⟨true, e, dir.drives, !x.cfg.hsAssert⟩
    xp := t
    seq.locs.b := u
    seq.locs.d := d
    seq.locs.j := j }

/-- What is known of a byte cycle that carried `v` or brought `u`. -/
structure CycleLeaves (role : Role) (brings : Byte → Prop) (dir : Dir) (v : Byte) (e : Level) (u : Byte) : Prop where
  brought : dir = .rd → brings u
  held : role = .responder → dir = .wr → e = v.getLsbD 7

/-- What a byte to send hangs on. -/
theorem Block.srcByte_congr {x y : Block} (hbuf : x.buf = y.buf) (he : x.bufEpoch = y.bufEpoch)
    (hb : x.seq.locs.b = y.seq.locs.b) (hacc : x.seq.locs.acc = y.seq.locs.acc) (hn : x.seq.locs.n = y.seq.locs.n) (v : Src) :
    x.srcByte v = y.srcByte v := by
  cases v <;> simp only [Block.srcByte, Block.readBuf, hbuf, he, hb, hacc, hn]

/-- finish raises DONE. -/
theorem Block.event_done_finish (b : Block) (code : ResultCode) : (b.finish code).event .done = true := by
  unfold Block.finish
  cases code.isError
  · exact (Block.event_raise _ .done .done).trans (Bool.or_true _)
  · refine (Block.event_raise _ .err .done).trans ?_
    rw [Block.event_raise]
    simp

/-- finish raises ERR for an error. -/
theorem Block.event_err_finish (b : Block) (code : ResultCode) : (b.finish code).event .err = (b.event .err || code.isError) := by
  unfold Block.finish
  cases code.isError
  · exact (Block.event_raise _ .done .err).trans rfl
  · exact (Block.event_raise _ .err .err).trans (by simp)

/-- `y` with RESULT and CKSUM written. -/
def Block.closing (y : Block) (r : Result) (k : Cksum) : Block := { y with regs.result := r, regs.cksum := k }

/-- `z` has ended an operation as `y` stood before the lines that write RESULT and CKSUM: with `r` and `k` in them, and, with
no stray edge, `w0` having crossed DATA. -/
structure Block.EndsAs (role : Role) (c : Prop) (w0 : Wire) (r : Result) (k : Cksum) (w : Wire) (y z : Block) : Prop where
  isRole : z.cfg.role = role
  finished : z.finishedWith r y.regs.statusOp
  sums : z.regs.cksum = k
  advlen : z.regs.advlen = y.regs.advlen
  dataOe : z.out.dataOe = y.out.dataOe
  hsO : z.out.hsO = y.out.hsO
  sckO : z.out.sckO = y.out.sckO
  buf : z.buf = y.buf
  bufEpoch : z.bufEpoch = y.bufEpoch
  clean : c → (role = .responder → z.event .strayClk = false) →
    w = w0 ∧ (z.sync.sckPrev = true → z.out.dataO = y.out.dataO)

section
variable {role : Role} {led c quiet : Prop} {brings : Nat → Byte → Prop} {Q : Wire → Block → Prop}
variable {T : Nat → Wire → Block → Prop}
variable {s s' : Prop} {i : Nat} {w0 w : Wire} {x z : Block} {ls rest : List Line}

theorem Block.Reaches.mono (h : x.Reaches role led c T s w0) (hs : s → s') : x.Reaches role led c T s' w0 :=
  fun hx n w z hn hn0 hz => h hx n w z hn (fun hs' => hn0 (hs hs')) hz

variable (g : Game role led c quiet brings Q T)
include g

/-- An initiator takes the byte that it has in SH. -/
theorem Game.takeSh (hrole : role = .initiator) (hc : c) (h : ((x.holding x.xp.sh).goto rest).Reaches role led c T s w0) :
    (x.goto (.takeSh :: rest)).Reaches role led c T s w0 := by
  intro hx n w z hn hs hz
  obtain ⟨hr, hm, hrole', ht, harmed, hcnt⟩ := Block.ready_goto.mp hx
  have hini : z.cfg.role = .initiator := by
    rw [Block.cfg_of_core hz.core]
    exact hrole'.trans hrole
  refine g.given fun hinv hrz => ?_
  have hstray : z.event .strayClk = false := (hinv.initiator hini).2.2
  obtain ⟨rfl, hxp, hdata⟩ := hz.clean hc hstray
  have hseq : z.seq = (x.goto (.takeSh :: rest)).seq := Block.seq_of_core hz.core
  have hp : z.seq.prog = .run (.takeSh :: rest) := congrArg Seq.prog hseq
  refine g.calm hx rfl hz fun p slip _ => ?_
  have hbegun : z.begun p slip = z.withSync (z.syncShift p slip).sync := by rw [Block.begun_of_initiator hini]; rfl
  have hstep := Block.clkStep_line p slip hrz (hinv.oneStep hini) hp rfl
  have hnone : z.taken (z.clkStep p slip) = [] :=
    Block.taken_eq_nil (fun _ d rest' hd => by rw [hp] at hd; cases hd) fun hrsp => by cases hini.symm.trans hrsp
  rw [hnone, List.append_nil, hstep, hbegun]
  refine h (Block.ready_goto.mpr ⟨hr, hm, hrole', ht, harmed, hcnt⟩) _ _ _ (by omega) (fun hs' => by rw [hs hs'])
    ⟨?_, fun _ _ => ⟨rfl, hxp, hdata⟩⟩
  have hgo : ((x.goto (.takeSh :: rest)).core.holding x.xp.sh).goto rest = (x.holding x.xp.sh).core.goto rest :=
    Block.goto_congr (by rfl) rest
  calc (((z.withSync (z.syncShift p slip).sync).holding z.xp.sh).goto rest).core
      = (z.core.holding z.xp.sh).goto rest := Block.core_goto _ rest
    _ = (x.holding x.xp.sh).core.goto rest := by rw [hz.core, hxp]; exact hgo
    _ = ((x.holding x.xp.sh).goto rest).core := (Block.core_goto _ rest).symm

/-- The lines with which either side ends a cycle: the handshake line back, and the peer's awaited. -/
theorem Game.release (h : ((x.driveHs (!x.cfg.hsAssert)).goto rest).Reaches role led c T True w0) :
    (x.goto (.driveHs false :: .delay .prepoll :: .awaitHs false :: rest)).Reaches role led c T True w0 :=
  g.plain (.driveHs _) (fun _ => ⟨nofun, nofun⟩) nofun <| g.delay <| g.awaitHs <| h.mono .inl

/-- A byte that an initiator sends in a handshake cycle. -/
theorem Game.cycleI_wr {v : Src} (hrole : role = .initiator) (hc : c)
    (h : ∀ e t u d j, CycleLeaves role (brings i) .wr (x.srcByte v) e u →
      ((x.cycled .wr e t u d j).goto rest).Reaches role led c T True (w0 ++ wireBytes true [x.srcByte v])) :
    (x.goto (cycleI .wr v ++ rest)).Reaches role led c T s w0 := by
  have hlines : cycleI .wr v ++ rest = .driveHs true :: .delay .prepoll :: .awaitHs true :: .driveOe true :: .loadSh v ::
      transferLines .wr (.takeSh :: .driveHs false :: .delay .prepoll :: .awaitHs false :: rest) := rfl
  rw [hlines]
  refine g.plain (.driveHs _) (fun _ => ⟨nofun, nofun⟩) nofun <| g.delay <| g.awaitHs <| .mono (s := s) ?_ .inl
  refine g.plain (.driveOe _) (fun _ => ⟨nofun, nofun⟩) nofun <| g.load (.loadSh v) nofun fun e => ?_
  rw [Block.did_driveHs, Block.did_driveOe]
  obtain ⟨j, hj, -⟩ := ((x.driveHs (hsLevel x.cfg true)).driveOe true).did_load v
  have hsrc : ((x.driveHs (hsLevel x.cfg true)).driveOe true).srcByte v = x.srcByte v := Block.srcByte_congr rfl rfl rfl rfl rfl v
  rw [hj, hsrc]
  refine g.write hrole hc rfl ?_
  rintro ⟨sh, cnt, hph, sck, dataO, d⟩ (rfl : sck = true)
  refine g.takeSh hrole hc <| g.release ?_
  have hend := h dataO ⟨sh, cnt, x.xp.byteDone, x.xp.armed, hph⟩ sh d j
    ⟨nofun, fun hrsp => (by cases hrole.symm.trans hrsp)⟩
  rwa [Block.goto_congr (y := x.cycled .wr dataO ⟨sh, cnt, x.xp.byteDone, x.xp.armed, hph⟩ sh d j) (by rfl) rest]

/-- A byte that an initiator takes in a handshake cycle. -/
theorem Game.cycleI_rd {v : Src} (hrole : role = .initiator) (hc : c) (hs : s ∨ quiet)
    (h : ∀ e t u d j, CycleLeaves role (brings i) .rd (x.srcByte v) e u →
      ((x.cycled .rd e t u d j).goto rest).Reaches role led c T True (w0 ++ wireBytes false [u])) :
    (x.goto (cycleI .rd v ++ rest)).Reaches role led c T s w0 := by
  have hlines : cycleI .rd v ++ rest = .driveOe false :: .driveHs true :: .delay .prepoll :: .awaitHs true ::
      transferLines .rd (.takeSh :: .driveHs false :: .delay .prepoll :: .awaitHs false :: rest) := rfl
  rw [hlines]
  refine g.plain (.driveOe _) (fun _ => ⟨nofun, nofun⟩) nofun <| g.plain (.driveHs _) (fun _ => ⟨nofun, nofun⟩) nofun <|
    g.delay <| g.awaitHs ?_
  rw [Block.did_driveOe, Block.did_driveHs]
  refine g.readByte (i := i) hrole (hs.imp_right fun hq => ⟨hq, rfl⟩) rfl ?_
  rintro ⟨sh, cnt, hph, sck, dataO, d⟩ hbrings (rfl : sck = true)
  refine g.takeSh hrole hc <| g.release ?_
  have hend := h dataO ⟨sh, cnt, x.xp.byteDone, x.xp.armed, hph⟩ sh d x.seq.locs.j
    ⟨fun _ => hbrings, nofun⟩
  rwa [Block.goto_congr (y := x.cycled .rd dataO ⟨sh, cnt, x.xp.byteDone, x.xp.armed, hph⟩ sh d x.seq.locs.j) (by rfl) rest]

/-- The overrun test (42_framer.md R260). -/
theorem Game.testOverrun
    (h : (if x.seq.locs.cap < x.seq.locs.len then x.goto overrunTail
      else x.goto (readRespTail x.seq.locs.len.toNat)).Reaches role led c T s w0) :
    (x.goto [.testOverrun]).Reaches role led c T s w0 := by
  intro hx n w z hn hs hz
  refine g.calm hx rfl hz fun p slip harmed => ?_
  have hline := hz.line hx.rstN hx.mid rfl .testOverrun p slip harmed fun _ => ⟨nofun, nofun⟩
  refine h ?_ _ _ _ (by omega) (fun hs' => by rw [hs hs']) hline
  split <;> exact Block.ready_goto.mpr (Block.ready_goto.mp hx)

/-- The last line of an operation, `x` having come of `y` by lines that write RESULT and CKSUM alone. -/
theorem Game.ends {l : Line} {y : Block} {r : Result} {k : Cksum} (hl : l.Calm) (hload : ∀ v, l ≠ .loadSh v ∧ l ≠ .armSh v)
    (hrun : ∀ y : Block, y.seq.locs = x.seq.locs → y.runLine l [] = y.finish r.code) (hdrop : x.dropZero [l] = [l])
    (hy : { x with seq.prog := .idle, regs.result.code := r.code } = { y.closing r k with seq.prog := .idle }) (hs : s)
    (h : ∀ w z, y.EndsAs role c w0 r k w z → Q w z) : (x.goto [l]).Reaches role led c T s w0 := by
  intro hx n w z hn hn0 hz
  obtain rfl := hn0 hs
  have hp : (x.goto [l]).seq.prog = .run [l] := congrArg Prog.run hdrop
  have hseq : z.seq = (x.goto [l]).seq := Block.seq_of_core hz.core
  refine g.given fun hinv _ => g.calm hx hp hz fun p slip harmed => ?_
  obtain ⟨-, -, herr⟩ := hinv.running (by simp [Block.busy, hseq])
  obtain ⟨-, hkeep, -, -⟩ := z.begun_keeps p slip
  obtain ⟨hres, hop, herr'⟩ := z.begun_regs p slip
  have hstep := hz.clkStep_eq hx.rstN hx.mid hp hl p slip
  rw [hrun _ (by rw [hkeep, hseq]; rfl)] at hstep
  have hline := hz.line hx.rstN hx.mid hp hl p slip harmed hload
  have hend := congrArg (fun b : Block => b.finish r.code) hy
  replace hend : (x.goto [l]).finish r.code = (y.closing r k).finish r.code := hend
  rw [hrun (x.goto [l]) rfl, hend] at hline
  have hidle : (z.clkStep p slip).busy = false := by rw [hstep]; exact Block.finish_busy _ _
  have hrole : (z.clkStep p slip).cfg.role = role := by
    rw [z.cfg_clkStep, Block.cfg_of_core hz.core]
    exact hx.isRole
  have hcore := hline.core
  refine g.done hidle (h _ _ ⟨hrole, ⟨hidle, ?_, ?_, ?_, ?_⟩, ?_, ?_, ?_, ?_, ?_, ?_, ?_, fun hc hstray => ?_⟩)
  · rw [Block.result_of_core hcore, Block.finish_result]; rfl
  · rw [hstep]
    exact Block.event_done_finish _ _
  · rw [hstep]
    exact (Block.event_err_finish _ _).trans (by rw [herr', herr, Bool.false_or])
  · rw [Block.statusOp_of_core hcore, Block.finish_statusOp]; rfl
  · rw [Block.cksum_of_core hcore, Block.finish_cksum]; rfl
  · rw [Block.advlen_of_core hcore, Block.finish_advlen]; rfl
  · rw [Block.dataOe_of_core hcore, Block.finish_out]; rfl
  · rw [Block.hsO_of_core hcore, Block.finish_out]; rfl
  · rw [Block.sckO_of_core hcore, Block.finish_out]; rfl
  · rw [Block.buf_of_core hcore, Block.finish_buf]; rfl
  · rw [Block.bufEpoch_of_core hcore, Block.finish_bufEpoch]; rfl
  · obtain ⟨hw, -, hdata⟩ := hline.clean hc (by
      cases role with
      | initiator => exact ((hinv.clkStep p slip).initiator hrole).2.2
      | responder => exact hstray rfl)
    exact ⟨hw, fun hprev => (hdata (.inl hprev)).trans (by rw [Block.finish_out]; rfl)⟩

end

end Sys2Proof.Machine
end

section
/-! SUPPORT. A responder that is armed (40_transport.md R174 to R176): bit after bit of its byte, whatever edges come when, up to
the cycle in which AwaitByte takes the byte. -/

namespace Sys2Proof.Machine

/-- Bit `j` of the byte that crosses DATA in a transfer, `k` of its bits having entered SH. -/
def Dir.bitSeen (dir : Dir) (v sh : Byte) (k j : Nat) : Level :=
  match dir with
  | .wr => v.getLsbD j
  | .rd => sh.getLsbD (8 - k + j)

/-- The bits of the byte that have crossed DATA. -/
def Dir.bitsSeen (dir : Dir) (v sh : Byte) (k : Nat) : Wire :=
  (List.range k).map fun j => (dir.drives, dir.bitSeen v sh k j)

/-- A responder that has sent `k` bits of `v` has the others in SH, and on DATA the bit that a falling edge put there. -/
structure Block.PutsBits (v : Byte) (k : Nat) (z : Block) : Prop where
  holds : HoldsFrom v z.xp.sh k
  low : z.sync.sckPrev = false ∨ k = 0 → k < 8 → z.out.dataO = v.getLsbD k
  high : z.sync.sckPrev = true → 0 < k → z.out.dataO = v.getLsbD (k - 1)

/-- `z` stands where `x` does and `k` bits of its byte are in, no stray edge having come before. -/
structure Block.Receives (c : Prop) (dir : Dir) (v : Byte) (k : Nat) (w0 w : Wire) (z x : Block) : Prop where
  core : z.core = x.core
  clean : c → z.event .strayClk = false →
    w = w0 ++ dir.bitsSeen v z.xp.sh k ∧
      z.xp = ⟨z.xp.sh, BitVec.ofNat 3 k, decide (k = 8), decide (k ≠ 8), x.xp.hph⟩ ∧ (dir = .wr → z.PutsBits v k)

section
variable {c : Prop} {dir : Dir} {v : Byte} {k : Nat} {w0 w : Wire} {x z z' : Block} {rest' : List Line}

/-- A block that has just been armed has received nothing. -/
theorem Block.Follows.receives (h : z.Follows c w0 w x) (hx : x.Armed dir v) : z.Receives c dir v 0 w0 w x := by
  refine ⟨h.core, fun hc hstray => ?_⟩
  obtain ⟨rfl, hxp, hdata⟩ := h.clean hc hstray
  refine ⟨(List.append_nil _).symm, ?_, fun hdir => ?_⟩
  · rw [hxp]
    exact congrArg₂ (fun (n : BitVec 3) (p : Bool × Bool) => (⟨x.xp.sh, n, p.1, p.2, x.xp.hph⟩ : Xport)) hx.bitcnt
      (congrArg₂ Prod.mk hx.byteDone hx.armed)
  · obtain ⟨hsh, hbit⟩ := hx.sends hdir
    have hd : z.out.dataO = v.getLsbD 0 := (hdata (.inr (by rw [hbit, hsh]))).trans hbit
    exact ⟨fun j _ => by rw [Nat.zero_add, hxp, hsh], fun _ _ => hd, fun _ h0 => absurd h0 (by decide)⟩

/-- A bit more has crossed DATA: the one sent, or the one that enters SH. -/
theorem Dir.bitsSeen_succ (dir : Dir) (v sh : Byte) (u : Level) (hk : k < 8) :
    dir.bitsSeen v (shiftIn u sh) (k + 1) = dir.bitsSeen v sh k ++
      [(dir.drives, match dir with | .wr => v.getLsbD k | .rd => u)] := by
  rw [Dir.bitsSeen, List.range_succ, List.map_append]
  refine congrArg₂ (· ++ ·) (List.map_congr_left fun j hj => ?_) ?_
  · have hj := List.mem_range.mp hj
    cases dir with
    | wr => rfl
    | rd =>
      rw [Dir.bitSeen, Dir.bitSeen, getLsbD_shiftIn _ _ (by omega), if_neg (by omega)]
      rw [show 8 - (k + 1) + j + 1 = 8 - k + j by omega]
  · cases dir with
    | wr => rfl
    | rd =>
      rw [List.map_singleton, Dir.bitSeen, getLsbD_shiftIn _ _ (by omega), if_pos (by omega)]

/-- A rising edge counts a bit of the byte. -/
theorem Xport.risen {t : Xport} {u : Level} {hph : Half} (ht : t = ⟨t.sh, BitVec.ofNat 3 k, decide (k = 8), decide (k ≠ 8), hph⟩)
    (hk : k < 8) : (⟨shiftIn u t.sh, t.bitcnt + 1#3, t.byteDone || decide (t.bitcnt = 7#3),
      t.armed && !decide (t.bitcnt = 7#3), t.hph⟩ : Xport) =
      ⟨shiftIn u t.sh, BitVec.ofNat 3 (k + 1), decide (k + 1 = 8), decide (k + 1 ≠ 8), hph⟩ := by
  have h7 : BitVec.ofNat 3 k = 7#3 ↔ k = 7 :=
    ⟨fun h => by by_contra hne; exact bitcnt_ne_seven (by omega) h, fun h => by rw [h]⟩
  rw [ht]
  simp [h7, BitVec.ofNat_add, show k ≠ 8 by omega]

/-- The start of a clk cycle, seen by a block that waits for its byte. -/
theorem Block.Receives.begun (h : z.Receives c dir v k w0 w x) (hk : k < 8) (hrole : z.cfg.role = .responder)
    (hoe : z.out.dataOe = dir.drives) (p : Pins) (slip : Option Level) (hsync : z'.sync.sckPrev = (z.begun p slip).sync.sckPrev)
    (hbit : z'.sync.bit = (z.begun p slip).sync.bit) (hout : z'.out.dataO = (z.begun p slip).out.dataO)
    (hoe' : z'.out.dataOe = z.out.dataOe) :
    (z.begun p slip).Receives c dir v (if z.rises p slip then k + 1 else k) w0 (w ++ z.taken z') x := by
  refine ⟨(z.core_begun p slip).trans h.core, fun hc hstray => ?_⟩
  obtain ⟨rfl, hxp, hsend⟩ := h.clean hc (Block.strayClk_of_begun hstray)
  have htakes : z.takesBit z' = z.rises p slip := by rw [Block.takesBit, hrole, Block.rises, hsync]
  rw [Block.taken, htakes, hoe', hbit, hout, hoe]
  have hprevs := congrArg Sync.sckPrev (Block.begun_sync_of_responder hrole p slip)
  cases hprev : z.sync.sckPrev <;> cases hnow : lastStage (shiftChain p.sck z.sync.sck)
  · have hr : z.rises p slip = false := by rw [Block.rises, hprevs]; simp [hprev, Sync.shifted, hnow]
    rw [hr, Block.begun_of_no_edge hrole (hprev.trans hnow.symm)]
    refine ⟨List.append_nil _, hxp, fun hdir => ?_⟩
    obtain ⟨hholds, hlow, -⟩ := hsend hdir
    exact ⟨hholds, fun _ => hlow (.inl hprev), fun hhigh => absurd (hnow.symm.trans hhigh) (by decide)⟩
  · have hr : z.rises p slip = true := by rw [Block.rises, hprevs]; simp [hprev, Sync.shifted, hnow]
    rw [hr, Block.begun_of_rise hrole hprev hnow, Block.engineRise_eq, if_pos rfl, if_pos rfl]
    refine ⟨?_, ?_, fun hdir => ?_⟩
    · have hseen := Dir.bitsSeen_succ dir v z.xp.sh (z.sync.shifted p slip).bit hk
      refine (List.append_assoc _ _ _).trans (congrArg (w0 ++ ·) (Eq.trans ?_ hseen.symm))
      refine congrArg (fun u => dir.bitsSeen v z.xp.sh k ++ [(dir.drives, u)]) ?_
      cases dir with
      | wr => exact (hsend rfl).low (.inl hprev) hk
      | rd => rfl
    · exact z.xp.risen hxp hk
    · obtain ⟨hholds, hlow, -⟩ := hsend hdir
      exact ⟨hholds.shiftIn _, fun hor => hor.elim (fun h => absurd (hnow.symm.trans h) (by decide)) nofun,
        fun _ _ => hlow (.inl hprev) hk⟩
  · have hr : z.rises p slip = false := by rw [Block.rises, hprevs]; simp [hprev, Sync.shifted, hnow]
    rw [hr, if_neg Bool.false_ne_true, if_neg Bool.false_ne_true, Block.begun_of_fall hrole hprev hnow, Block.engineFall]
    cases dir with
    | wr =>
      rw [if_pos (by exact hoe)]
      obtain ⟨hholds, -, -⟩ := hsend rfl
      exact ⟨List.append_nil _, hxp, fun _ => ⟨hholds, fun _ _ => hholds.bit hk,
        fun h => absurd (hnow.symm.trans h) (by decide)⟩⟩
    | rd =>
      rw [if_neg (c := (z.withSync (z.sync.shifted p slip)).out.dataOe = true) fun h => Bool.false_ne_true (hoe.symm.trans h)]
      exact ⟨List.append_nil _, hxp, nofun⟩
  · have hr : z.rises p slip = false := by rw [Block.rises, hprevs]; simp [hprev, Sync.shifted, hnow]
    rw [hr, Block.begun_of_no_edge hrole (hprev.trans hnow.symm)]
    refine ⟨List.append_nil _, hxp, fun hdir => ?_⟩
    obtain ⟨hholds, hlow, hhigh⟩ := hsend hdir
    exact ⟨hholds, fun hor => hlow (hor.imp_left fun h => absurd (hnow.symm.trans h) (by decide)), fun _ => hhigh hprev⟩

/-! ## The byte taken -/

/-- The responder `g` once AwaitByte has returned the byte in SH to the lines `rest`, its synchronisers at `y`. -/
def Block.gotByte (g : Block) (rest : List Line) (y : Sync) : Block :=
  { g with
    xp.byteDone := false
    seq.prog := .run (g.dropZero rest)
    seq.locs.b := g.xp.sh
    sync := y }

/-- A further step of a cycle is one without a draw of the block that has drawn. -/
theorem Block.clkStep_redraw (p : Pins) (slip : Option Level) (hr : z.rstN = true) (hm : z.seq.mid = true) :
    z.clkStep p slip = (z.redraw slip).clkStep p := by
  rw [Block.clkStep_mid p slip hr hm, Block.clkStep_mid (b := z.redraw slip) p none hr hm]
  rfl

/-- The two further steps of the cycle of the byte (40_transport.md R176; 60_exceptions.md R347). -/
theorem Block.clkStep_gotByte {g : Block} {rest : List Line} (hr : g.rstN = true) (hm : g.seq.mid = false)
    (hz : z = ({ g.goto (.takeDone true :: .takeSh :: rest) with seq.mid := true } : Block).latchPrev) (p q : Pins)
    (slip slip' : Option Level) : (z.clkStep p slip).busy = true ∧ (z.clkStep p slip).seq.mid = true ∧
      (z.clkStep p slip).sync.sckPrev = z.sync.sckPrev ∧
      ∃ y : Sync, y.sckPrev = z.sync.sckPrev ∧ (z.clkStep p slip).clkStep q slip' = g.gotByte rest y := by
  have hr' : z.rstN = true := by rw [hz]; exact hr
  have hm' : z.seq.mid = true := by rw [hz]; rfl
  have hp : z.seq.prog = .run (.takeDone true :: .takeSh :: rest) := by rw [hz]; rfl
  have hone : z.clkStep p slip = { z.redraw slip with
      xp.byteDone := false, seq.prog := .run (.takeSh :: rest), seq.mid := true } :=
    (Block.clkStep_redraw p slip hr' hm').trans (Block.clkStep_takeDone (b := z.redraw slip) hr' hm' hp p)
  rw [hone]
  set z1 : Block := { z.redraw slip with xp.byteDone := false, seq.prog := .run (.takeSh :: rest), seq.mid := true }
  refine ⟨rfl, rfl, rfl, (z1.redraw slip').sync, rfl, ?_⟩
  have hdrop : (z1.redraw slip').dropZero rest = g.dropZero rest :=
    Block.dropZero_congr (fun d => by simp only [z1, hz]; cases d <;> rfl) rest
  rw [Block.clkStep_redraw (z := z1) q slip' hr' rfl, Block.clkStep_takeSh_mid (b := z1.redraw slip') hr' rfl rfl, hdrop,
    Block.gotByte]
  simp only [z1, hz, ← hm]
  rfl

/-- The byte that eight edges brought crossed DATA bit by bit. -/
theorem Dir.bitsSeen_eight (dir : Dir) (v sh : Byte) : dir.bitsSeen v sh 8 = wireBytes dir.drives [dir.crossing v sh] := by
  rw [wireBytes_singleton]
  cases dir <;> rfl

/-- The level that a responder's transfer leaves on data_o, if it had `d` there and does not write. -/
def Dir.leaves (dir : Dir) (v : Byte) (d : Level) : Level :=
  match dir with
  | .wr => v.getLsbD 7
  | .rd => d

theorem Block.core_gotByte (g : Block) (rest : List Line) (y : Sync) :
    (g.gotByte rest y).core = (g.core.holding g.xp.sh).goto rest := by
  have hdrop : (g.core.holding g.xp.sh).dropZero rest = g.dropZero rest :=
    Block.dropZero_congr (fun d => by cases d <;> rfl) rest
  rw [Block.goto, hdrop]
  rfl

/-- The block once it has taken its byte. -/
theorem Block.Receives.gotByte {g : Block} {rest : List Line} {y : Sync} {e : Level}
    (h : g.Receives c dir v k w0 w (x.goto rest')) (hdone : g.xp.byteDone = true) (hprev : k = 8 → g.sync.sckPrev = true)
    (he : e = dir.leaves v g.out.dataO) :
    (g.gotByte rest y).Follows c (w0 ++ wireBytes dir.drives [dir.crossing v g.xp.sh]) w ((x.tookByte g.xp.sh e).goto rest) := by
  refine ⟨?_, fun hc hstray => ?_⟩
  · calc (g.gotByte rest y).core = ((x.goto rest').core.holding g.xp.sh).goto rest := by rw [g.core_gotByte, h.core]
      _ = (x.tookByte g.xp.sh e).core.goto rest := Block.goto_congr (by rfl) rest
      _ = ((x.tookByte g.xp.sh e).goto rest).core := (Block.core_goto _ rest).symm
  · obtain ⟨hw, hxp, hsend⟩ := h.clean hc hstray
    obtain rfl : k = 8 := by
      rw [hxp] at hdone
      exact of_decide_eq_true hdone
    refine ⟨by rw [hw, Dir.bitsSeen_eight], ?_, fun _ => ?_⟩
    · exact congrArg (fun t : Xport => { t with byteDone := false }) hxp
    · rw [show ((x.tookByte g.xp.sh e).goto rest).out.dataO = e from rfl, he]
      cases dir with
      | wr => exact (hsend rfl).high (hprev rfl) (by decide)
      | rd => rfl

/-! ## The lines of the wait -/

theorem Block.Receives.latchPrev (h : z.Receives c dir v k w0 w x) : z.latchPrev.Receives c dir v k w0 w x :=
  ⟨h.core, fun hc hstray => let ⟨hw, hxp, hsend⟩ := h.clean hc hstray
    ⟨hw, hxp, fun hdir => ⟨(hsend hdir).holds, (hsend hdir).low, (hsend hdir).high⟩⟩⟩

/-- Short of eight bits, or where nothing is claimed of them, a block without its byte waits on. -/
theorem Block.Receives.waitsOn (h : z.Receives c dir v k w0 w x) (hk : k ≤ 8) (hdone : z.xp.byteDone = false) :
    ∃ j < 8, z.Receives c dir v j w0 w x := by
  by_cases hclean : c ∧ z.event .strayClk = false
  · refine ⟨k, lt_of_le_of_ne hk fun h8 => ?_, h⟩
    obtain ⟨-, hxp, -⟩ := h.clean hclean.1 hclean.2
    rw [hxp] at hdone
    exact absurd h8 (of_decide_eq_false hdone)
  · exact ⟨0, by decide, h.core, fun hc hstray => absurd ⟨hc, hstray⟩ hclean⟩

section
variable {l : Line} {rest : List Line} (h : z.Receives c dir v k w0 w (x.goto (l :: rest))) (hk : k < 8)
variable (hx : x.rstN = true ∧ x.seq.mid = false ∧ x.cfg.role = .responder) (hoe : x.out.dataOe = dir.drives)
include h hx hoe

/-- What `x` has, `z` has. -/
theorem Block.Receives.like : z.rstN = true ∧ z.seq.mid = false ∧ z.cfg.role = .responder ∧ z.out.dataOe = dir.drives ∧
    z.seq = (x.goto (l :: rest)).seq :=
  ⟨(Block.rstN_of_core h.core).trans hx.1, (congrArg Seq.mid (Block.seq_of_core h.core)).trans hx.2.1,
    (congrArg Config.role (Block.cfg_of_core h.core)).trans hx.2.2, (Block.dataOe_of_core h.core).trans hoe,
    Block.seq_of_core h.core⟩

include hk

/-- The handshake line is driven while the byte may already come. -/
theorem Block.Receives.driveHs {a : Bool} (hl : l = .driveHs a) (p : Pins) (slip : Option Level) :
    (z.clkStep p slip).Receives c dir v (if z.rises p slip then k + 1 else k) w0 (w ++ z.taken (z.clkStep p slip))
      ((x.driveHs (hsLevel x.cfg a)).goto rest) := by
  obtain ⟨hr, hm, hrole, hoe', hseq⟩ := h.like hx hoe
  subst hl
  have hstep : z.clkStep p slip = ((z.begun p slip).runLine (.driveHs a) rest).latchPrev :=
    Block.clkStep_line p slip hr hm (by rw [hseq]; rfl) rfl
  have hrun : ((z.begun p slip).runLine (.driveHs a) rest).out.dataOe = z.out.dataOe := (z.begun_keeps p slip).2.2.2.2.2
  have hnext := h.begun (z' := z.clkStep p slip) hk hrole hoe' p slip (by rw [hstep]; rfl) (by rw [hstep]; rfl)
    (by rw [hstep]; rfl) (by rw [hstep]; exact hrun)
  rw [hstep] at hnext ⊢
  refine Block.Receives.latchPrev ⟨?_, fun hc hstray => ?_⟩
  · rw [← Block.did_driveHs, ← (x.goto_plain rest (.driveHs a)).2]
    exact Block.core_runLine_congr rest (.driveHs a) hnext.core
  · obtain ⟨hw, hxp, hsend⟩ := hnext.clean hc hstray
    exact ⟨hw, hxp, fun hdir => ⟨(hsend hdir).holds, (hsend hdir).low, (hsend hdir).high⟩⟩

/-- A clk cycle of the await: the byte is not there, or it is and the cycle goes on. -/
theorem Block.Receives.awaitByte (hl : l = .awaitByte) (p : Pins) (slip : Option Level) :
    (z.begun p slip).Receives c dir v (if z.rises p slip then k + 1 else k) w0 (w ++ z.taken (z.clkStep p slip))
      (x.goto (l :: rest)) ∧
    z.clkStep p slip = if (z.begun p slip).xp.byteDone then ({ (z.begun p slip).goto rest with seq.mid := true } : Block).latchPrev
      else (z.begun p slip).latchPrev := by
  obtain ⟨hr, hm, hrole, hoe', hseq⟩ := h.like hx hoe
  subst hl
  have hp : (z.begun p slip).seq.prog = .run (.awaitByte :: rest) := by rw [(z.begun_keeps p slip).2.1, hseq]; rfl
  have hstep : z.clkStep p slip = if (z.begun p slip).xp.byteDone then
      ({ (z.begun p slip).goto rest with seq.mid := true } : Block).latchPrev else (z.begun p slip).latchPrev := by
    cases hdone : (z.begun p slip).xp.byteDone with
    | true => rw [if_pos rfl, Block.clkStep_begins p slip hr hm, ← Block.begun, Block.seqStep_of_byte hdone hp]
    | false => rw [if_neg Bool.false_ne_true, Block.clkStep_of_resting hr hm (.inr ⟨hdone, rest, hp⟩)]
  have hout : (z.begun p slip).out.dataOe = z.out.dataOe := (z.begun_keeps p slip).2.2.2.2.2
  exact ⟨h.begun hk hrole hoe' p slip (by rw [hstep]; split <;> rfl) (by rw [hstep]; split <;> rfl)
    (by rw [hstep]; split <;> rfl) (by rw [hstep]; split <;> exact hout), hstep⟩

end

end

end Sys2Proof.Machine
end

section
/-! SUPPORT. That all runs of a block end well, whatever its pins and draws, is such a claim. -/

namespace Sys2Proof.Machine

/-- Every run that ends, from a block that meets the invariant, ends as `Q` says. -/
def Block.AllEnd (Q : Wire → Block → Prop) (_ : Nat) (w : Wire) (z : Block) : Prop := z.Inv → z.rstN = true → z.Safe Q w

section
variable {role : Role} {led c quiet : Prop} {Q : Wire → Block → Prop}
variable {n : Nat} {w0 w : Wire} {x z : Block} {l : Line} {rest : List Line}

/-- A clk cycle of an await of the handshake line leaves it or stays. -/
theorem Block.Follows.awaitHs {a : Bool} (hz : z.Follows c w0 w (x.goto (.awaitHs a :: rest))) (hx : x.Ready role led)
    (p : Pins) (slip : Option Level) (harmed : x.xp.armed = true → z.rises p slip = false) : (z.clkStep p slip).Follows c w0 (w ++ z.taken (z.clkStep p slip))
      (if lastStage (shiftChain p.hs z.sync.hs) = hsLevel x.cfg a then x.goto rest else x.goto (.awaitHs a :: rest)) := by
  have hb := hz.begun p slip harmed
  have hseq : z.seq = (x.goto (.awaitHs a :: rest)).seq := Block.seq_of_core hz.core
  have hcfg : (z.begun p slip).cfg = x.cfg := Block.cfg_of_core (y := x.goto _) hb.core
  have hstep : z.clkStep p slip = ((z.begun p slip).runLine (.awaitHs a) rest).latchPrev :=
    Block.clkStep_line p slip ((Block.rstN_of_core hz.core).trans hx.rstN) ((congrArg Seq.mid hseq).trans hx.mid)
      (by rw [hseq]; rfl) rfl
  have hnone (hc : c) (hstray : (z.begun p slip).event .strayClk = false) : z.taken (z.clkStep p slip) = [] :=
    hz.taken_eq_nil (p := p) (slip := slip) harmed hc hstray
      (by rw [hstep, Block.latchPrev_sync, Block.sync_runLine]) nofun
  have hwas : (z.begun p slip).Follows c w0 (w ++ z.taken (z.clkStep p slip)) (x.goto (.awaitHs a :: rest)) :=
    ⟨hb.core, fun hc hstray => by rw [hnone hc hstray, List.append_nil]; exact hb.clean hc hstray⟩
  generalize w ++ z.taken (z.clkStep p slip) = w' at hwas ⊢
  rw [hstep, Block.runLine, Block.hsSample, (z.begun_hs p slip).1, hcfg]
  split
  · refine ⟨?_, hwas.clean⟩
    calc ((z.begun p slip).goto rest).core = (x.goto (.awaitHs a :: rest)).core.goto rest := by rw [Block.core_goto, hb.core]
      _ = x.core.goto rest := Block.goto_congr (by rfl) rest
      _ = (x.goto rest).core := (Block.core_goto _ rest).symm
  · exact ⟨hwas.core, hwas.clean⟩

theorem Block.rstN_clkStep (z : Block) (p : Pins) (slip : Option Level) (hr : z.rstN = true) :
    (z.clkStep p slip).rstN = true :=
  (congrArg (fun t => t.2.1) (Block.settings_clkStep p slip hr)).trans hr

theorem Block.AllEnd.step {m : Nat} (hbusy : z.busy = true)
    (h : ∀ p slip, (z.clkStep p slip).AllEnd Q m (w ++ z.taken (z.clkStep p slip))) : z.AllEnd Q n w := fun hinv hr =>
  .step hbusy fun p slip => h p slip (hinv.clkStep p slip) (z.rstN_clkStep p slip hr)

/-- An await that each step leaves or keeps, as `J` says. -/
theorem Block.AllEnd.wait {J : Wire → Block → Prop} (hJ : ∀ w x, J w x → x.busy = true)
    (hstep : ∀ w x p slip, J w x → J (w ++ x.taken (x.clkStep p slip)) (x.clkStep p slip) ∨
      (x.clkStep p slip).AllEnd Q n (w ++ x.taken (x.clkStep p slip))) (h : J w z) : z.AllEnd Q n w := fun hinv hr =>
  .wait (J := fun w x => J w x ∧ x.Inv ∧ x.rstN = true) (fun w x hx => hJ w x hx.1) (fun w x p slip ⟨hx, hinv, hr⟩ =>
    (hstep w x p slip hx).imp (fun h => ⟨h, hinv.clkStep p slip, x.rstN_clkStep p slip hr⟩)
      fun h => h (hinv.clkStep p slip) (x.rstN_clkStep p slip hr)) ⟨h, hinv, hr⟩

theorem Block.AllEnd.along (ps : List Pins) : ∀ {w : Wire} {z : Block},
    z.Along False (fun _ w' z' => z'.AllEnd Q n w') ps.length ps w → z.AllEnd Q n w := by
  induction ps with
  | nil => exact id
  | cons p ps ih => exact fun ⟨hbusy, hnext⟩ => .step hbusy fun q slip => ih (hnext q slip nofun)

theorem Block.taken_of_no_edge {b b' : Block} (hrole : b.cfg.role = .responder) (h : b'.sync.sckPrev = b.sync.sckPrev) :
    b.taken b' = [] :=
  Block.taken_eq_nil (fun hini => by cases hrole.symm.trans hini) fun _ => by
    rw [h]
    cases b.sync.sckPrev
    · exact .inr rfl
    · exact .inl rfl

/-- The cycle of the byte, from its edge to its last step. -/
theorem Block.Receives.byteTaken {dir : Dir} {v : Byte} {k : Nat}
    (hz : z.Receives c dir v k w0 w (x.goto (awaitByteLines ++ rest))) (hk : k < 8)
    (hx : x.rstN = true ∧ x.seq.mid = false ∧ x.cfg.role = .responder) (hoe : x.out.dataOe = dir.drives) {p p1 p2 : Pins}
    {slip slip1 slip2 : Option Level} (hdone : (z.begun p slip).xp.byteDone = true) {z1 z2 z3 : Block}
    (hz1 : z1 = z.clkStep p slip) (hz2 : z2 = z1.clkStep p1 slip1) (hz3 : z3 = z2.clkStep p2 slip2) :
    z1.busy = true ∧ z2.busy = true ∧
      (∃ y, z3 = (z.begun p slip).gotByte rest y ∧ y.sckPrev = (z.begun p slip).sync.sckPrev) ∧
      z3.Follows c (w0 ++ wireBytes dir.drives [dir.crossing v (z.begun p slip).xp.sh])
        (w ++ z.taken z1 ++ z1.taken z2 ++ z2.taken z3)
        ((x.tookByte (z.begun p slip).xp.sh (dir.leaves v (z.begun p slip).out.dataO)).goto rest) := by
  obtain ⟨hbegun, hstep⟩ := hz.awaitByte hk hx hoe rfl p slip
  rw [hdone, if_pos rfl] at hstep
  have hg : (z.begun p slip).rstN = true ∧ (z.begun p slip).seq.mid = false :=
    ⟨(Block.rstN_of_core hbegun.core).trans hx.1, (congrArg Seq.mid (Block.seq_of_core hbegun.core)).trans hx.2.1⟩
  have hrole1 : z1.cfg.role = .responder := by
    rw [hz1, hstep]
    exact (congrArg Config.role (Block.cfg_of_core hbegun.core)).trans hx.2.2
  have hrole2 : z2.cfg.role = .responder := by rw [hz2, z1.cfg_clkStep]; exact hrole1
  obtain ⟨hbusy, -, hprev, y, hy, hgot⟩ := Block.clkStep_gotByte hg.1 hg.2 hstep p1 p2 slip1 slip2
  rw [← hz1, ← hz2, ← hz3] at hgot
  rw [← hz1] at hbusy hprev hy
  rw [← hz2] at hbusy hprev
  refine ⟨by rw [hz1, hstep]; rfl, hbusy, ⟨y, hgot, by rw [hy, hz1, hstep]; rfl⟩, ?_⟩
  rw [Block.taken_of_no_edge hrole1 hprev, Block.taken_of_no_edge hrole2 (by rw [hgot]; exact hy.trans hprev.symm),
    List.append_nil, List.append_nil, hgot, hz1]
  refine hbegun.gotByte hdone (fun h8 => ?_) rfl
  cases hrise : z.rises p slip with
  | true => exact (Bool.and_eq_true_iff.mp hrise).2
  | false =>
    rw [hrise, if_neg Bool.false_ne_true] at h8
    omega

/-- A byte comes to an armed responder, or the run does not end. -/
theorem Block.AllEnd.byte {dir : Dir} {v : Byte} (hx : x.rstN = true ∧ x.seq.mid = false ∧ x.cfg.role = .responder)
    (harmed : x.Armed dir v) (hz : z.Follows c w0 w (x.goto (.driveHs true :: (awaitByteLines ++ rest))))
    (h : ∀ (u : Byte) (e : Level) (w' : Wire) (z' : Block), (dir = .wr → e = v.getLsbD 7) →
      z'.Follows c (w0 ++ wireBytes dir.drives [dir.crossing v u]) w'
        (((x.driveHs (hsLevel x.cfg true)).tookByte u e).goto rest) → z'.AllEnd Q 0 w') : z.AllEnd Q n w := by
  have hrec := hz.receives (x := x.goto _) ⟨harmed.armed, harmed.bitcnt, harmed.byteDone, harmed.dataOe, harmed.sends⟩
  set y := x.driveHs (hsLevel x.cfg true)
  have hoe : y.out.dataOe = dir.drives := harmed.dataOe
  refine .step (m := n) (by simp [Block.busy, Block.seq_of_core hz.core]) fun p slip => ?_
  have hwait := hrec.driveHs (by decide) hx harmed.dataOe rfl p slip
  refine .wait (J := fun w z => ∃ k < 8, z.Receives c dir v k w0 w (y.goto (awaitByteLines ++ rest)))
    (fun w z ⟨_, _, hz⟩ => by simp [Block.busy, Block.seq_of_core hz.core]) (fun w z p slip ⟨k, hk, hz⟩ => ?_)
    ⟨_, by split <;> decide, hwait⟩
  obtain ⟨hbegun, hstep⟩ := hz.awaitByte hk hx hoe rfl p slip
  cases hdone : (z.begun p slip).xp.byteDone with
  | false =>
    rw [hdone, if_neg Bool.false_ne_true] at hstep
    obtain ⟨j, hj, hnext⟩ := hbegun.waitsOn (by split <;> omega) hdone
    exact .inl ⟨j, hj, by rw [hstep] at hnext ⊢; exact hnext.latchPrev⟩
  | true =>
    have htaken {p1 p2 slip1 slip2} := hz.byteTaken hk hx hoe (p1 := p1) (p2 := p2) (slip1 := slip1) (slip2 := slip2) hdone
      rfl rfl rfl
    refine .inr (.step (m := 0) (htaken (p1 := p) (p2 := p) (slip1 := slip) (slip2 := slip)).1 fun p1 slip1 =>
      .step (m := 0) (htaken (p1 := p1) (p2 := p) (slip1 := slip1) (slip2 := slip)).2.1 fun p2 slip2 => ?_)
    obtain ⟨-, -, -, hgot⟩ := htaken (p1 := p1) (p2 := p2) (slip1 := slip1) (slip2 := slip2)
    exact h _ _ _ _ (fun hdir => by rw [hdir]; rfl) hgot

/-- That all runs end well. -/
theorem Block.allEnd_game : Game role False c quiet (fun _ _ => True) Q (Block.AllEnd Q) where
  given h hinv hr := h hinv hr hinv hr
  step hbusy _ h := .step hbusy fun p slip => h p slip False.elim
  done hidle hQ _ _ := .done hidle hQ
  await {n w0 w x z a rest} hx hz h := by
    refine .wait (J := fun w z => z.Follows c w0 w (x.goto (.awaitHs a :: rest)))
      (fun w z hz => by simp [Block.busy, Block.seq_of_core hz.core]) (fun w z p slip hz => ?_) hz
    have hnext := hz.awaitHs hx p slip fun harmed => (hx.armed harmed).elim
    split at hnext
    · exact .inr fun hinv hr => h 0 _ _ (by omega) (fun _ _ => rfl) hnext hinv hr
    · exact .inl hnext
  read {i w0 w x z rest} hrole hx hoe hz h := by
    intro hinv hr
    have hini : z.cfg.role = .initiator := by
      rw [Block.cfg_of_core hz.core]
      exact hx.isRole.trans hrole
    have hoe' : z.out.dataOe = false := (Block.dataOe_of_core hz.core).trans hoe
    set k := 0 + z.delayCycles z.regs.byteSettle + 8 * z.bitCycles .rd
    refine Block.AllEnd.along (n := 0) (List.replicate k ⟨true, true, true⟩) ?_ hinv hr
    rw [List.length_replicate]
    refine hz.transferAlong (D := []) hinv hr hini ⟨False.elim, nofun⟩ fun us y ps hlen _ => ?_
    rw [hoe', Moving.wire_rd z.move hlen]
    exact h _ _ _ trivial (Moving.bits_eight z.move hlen).1 (hz.moved _ y _)
  byte {n i w0 w x z dir v rest} hrole hr hm hrole' harmed hz h :=
    .byte ⟨hr, hm, hrole'.trans hrole⟩ harmed hz fun u e w' z' he hz' => h u e w' z' (fun _ => trivial) he hz'

end

end Sys2Proof.Machine
end

section
/-! SUPPORT. A byte handshake cycle of a responder (41_handshake.md R222), and of either role. -/

namespace Sys2Proof.Machine

/-- A responder's CLK level is as it was. -/
theorem Block.cycled_of_high {x : Block} (h : x.out.sckO = true) (dir : Dir) (e : Level) (t : Xport) (u : Byte) (d : Level)
    (j : Half) : x.cycled dir e t u d j = { x with
      out := ⟨x.out.sckO, e, dir.drives, !x.cfg.hsAssert⟩
      xp := t
      seq.locs.b := u
      seq.locs.d := d
      seq.locs.j := j } := by
  rw [Block.cycled, h]

section
variable {role : Role} {led c quiet : Prop} {brings : Nat → Byte → Prop} {Q : Wire → Block → Prop}
variable {T : Nat → Wire → Block → Prop} (g : Game role led c quiet brings Q T)
variable {s : Prop} {i : Nat} {w0 w : Wire} {x z : Block} {rest : List Line}
include g

/-- Arming, and the byte that comes (40_transport.md R175, R176). -/
theorem Game.armed {dir : Dir} {v : Byte} (hrole : role = .responder) (hdone : x.xp.byteDone = false)
    (hoe : x.out.dataOe = dir.drives) (hsends : dir = .wr → x.xp.sh = v ∧ x.out.dataO = v.getLsbD 0)
    (h : ∀ u e, (dir = .rd → brings i u) → (dir = .wr → e = v.getLsbD 7) →
      (((x.driveHs (hsLevel x.cfg true)).tookByte u e).goto rest).Reaches role led c T True
        (w0 ++ wireBytes dir.drives [dir.crossing v u])) :
    (x.goto (.arm :: .driveHs true :: (awaitByteLines ++ rest))).Reaches role led c T s w0 := by
  intro hx n w z hn hs hz
  obtain ⟨hr, hm, hrole', ht, harmed, hcnt⟩ := Block.ready_goto.mp hx
  refine g.calm hx rfl hz fun p slip hedge => ?_
  have hline := hz.line hx.rstN hx.mid rfl .arm p slip hedge fun _ => ⟨nofun, nofun⟩
  rw [(x.goto_plain _ .arm).2] at hline
  have hx' : (x.did .arm).Armed dir v := ⟨rfl, hcnt hrole, hdone, hoe, hsends⟩
  exact g.byte (x := x.did .arm) hrole hr hm hrole' hx' hline fun u e w' z' hbrings he hz' =>
    h u e hbrings he (Block.ready_goto.mpr ⟨hr, hm, hrole', ht, nofun, fun _ => rfl⟩) 0 w' z' (by omega) (fun _ => rfl) hz'

/-- A byte handshake cycle of a responder: its DATA ready, armed for `v` or to read. -/
theorem Game.cycle_responder {dir : Dir} {v : Src} (hrole : role = .responder)
    (h : ∀ e t u d j, CycleLeaves role (brings i) dir (x.srcByte v) e u →
      ((x.cycled dir e t u d j).goto rest).Reaches role led c T True
        (w0 ++ wireBytes dir.drives [dir.crossing (x.srcByte v) u])) :
    (x.goto (cycleR dir v ++ rest)).Reaches role led c T s w0 := by
  intro hx n w z hn hs hz
  refine g.given fun hinv _ => ?_
  have hsck : x.out.sckO = true := (Block.sckO_of_core (y := x.goto _) hz.core).symm.trans (hinv.responder (by
    rw [Block.cfg_of_core hz.core]
    exact hx.isRole.trans hrole))
  suffices hall : (x.goto (cycleR dir v ++ rest)).Reaches role led c T s w0 from hall hx n w z hn hs hz
  cases dir with
  | wr =>
    have hlines : cycleR .wr v ++ rest = .delay .prepoll :: .awaitHs true :: .clearDone :: .armSh v :: .driveOe true ::
      .driveBit0 v :: .arm :: .driveHs true :: (awaitByteLines ++ .delay .prepoll :: .awaitHs false :: .driveHs false :: rest) := rfl
    rw [hlines]
    refine g.delay <| g.awaitHs <| .mono (s := s) ?_ .inl
    refine g.plain .clearDone (fun _ => ⟨nofun, nofun⟩) nofun <| g.load (.armSh v) nofun fun e => ?_
    rw [Block.did_clearDone]
    obtain ⟨j, -, hj⟩ := ({ x with xp.byteDone := false } : Block).did_load v
    have hsrc : ({ x with xp.byteDone := false } : Block).srcByte v = x.srcByte v := Block.srcByte_congr rfl rfl rfl rfl rfl v
    rw [hj, hsrc]
    refine g.plain (.driveOe _) (fun _ => ⟨nofun, nofun⟩) nofun <| g.plain (.driveBit0 _) (fun _ => ⟨nofun, nofun⟩) nofun ?_
    rw [Block.did_driveOe, Block.did_driveBit0]
    refine g.armed (dir := .wr) (v := x.srcByte v) (i := i) hrole rfl rfl (fun _ => ⟨rfl, ?_⟩) fun u e _ he => ?_
    · exact congrArg (BitVec.getLsbD · 0) ((Block.srcByte_congr rfl rfl rfl rfl rfl v).trans hsrc)
    refine g.delay <| g.awaitHs <| .mono (s := True) ?_ .inl
    refine g.plain (.driveHs _) (fun _ => ⟨nofun, nofun⟩) nofun ?_
    have hend := h e ⟨u, 0#3, false, false, x.xp.hph⟩ u x.seq.locs.d j ⟨nofun, fun _ => he⟩
    rw [Block.goto_congr (y := x.cycled .wr e ⟨u, 0#3, false, false, x.xp.hph⟩ u x.seq.locs.d j)
      (by rw [Block.did_driveHs, Block.cycled_of_high hsck]; rfl) rest]
    exact hend
  | rd =>
    have hlines : cycleR .rd v ++ rest = .delay .prepoll :: .awaitHs true :: .driveOe false :: .clearDone ::
      .arm :: .driveHs true :: (awaitByteLines ++ .delay .prepoll :: .awaitHs false :: .driveHs false :: rest) := rfl
    rw [hlines]
    refine g.delay <| g.awaitHs <| .mono (s := s) ?_ .inl
    refine g.plain (.driveOe _) (fun _ => ⟨nofun, nofun⟩) nofun <| g.plain .clearDone (fun _ => ⟨nofun, nofun⟩) nofun ?_
    rw [Block.did_driveOe, Block.did_clearDone]
    refine g.armed (dir := .rd) (v := x.srcByte v) (i := i) hrole rfl rfl nofun fun u e hbrings _ => ?_
    refine g.delay <| g.awaitHs <| .mono (s := True) ?_ .inl
    refine g.plain (.driveHs _) (fun _ => ⟨nofun, nofun⟩) nofun ?_
    have hend := h e ⟨u, 0#3, false, false, x.xp.hph⟩ u x.seq.locs.d x.seq.locs.j ⟨hbrings, nofun⟩
    rw [Block.goto_congr (y := x.cycled .rd e ⟨u, 0#3, false, false, x.xp.hph⟩ u x.seq.locs.d x.seq.locs.j)
      (by rw [Block.did_driveHs, Block.cycled_of_high hsck]; rfl) rest]
    exact hend

/-- A byte handshake cycle. An initiator that reads takes its bits after the cycles whose pins may not be chosen. -/
theorem Game.cycle {dir : Dir} {v : Src} (hc : role = .initiator → c) (hs : role = .initiator → dir = .rd → s ∨ quiet)
    (h : ∀ e t u d j, CycleLeaves role (brings i) dir (x.srcByte v) e u →
      ((x.cycled dir e t u d j).goto rest).Reaches role led c T True
        (w0 ++ wireBytes dir.drives [dir.crossing (x.srcByte v) u])) :
    (x.goto (cycleOf role dir v ++ rest)).Reaches role led c T s w0 := by
  cases role with
  | initiator =>
    cases dir with
    | wr => exact g.cycleI_wr rfl (hc rfl) h
    | rd => exact g.cycleI_rd rfl (hc rfl) (hs rfl rfl) h
  | responder => exact g.cycle_responder rfl h

/-- A byte sent. -/
theorem Game.send {v : Src} (hc : role = .initiator → c)
    (h : ∀ e t u d j, (role = .responder → e = (x.srcByte v).getLsbD 7) →
      ((x.cycled .wr e t u d j).goto rest).Reaches role led c T True (w0 ++ wireBytes true [x.srcByte v])) :
    (x.goto (cycleOf role .wr v ++ rest)).Reaches role led c T s w0 :=
  g.cycle (i := 0) hc nofun fun e t u d j hleaves => h e t u d j fun hrole => hleaves.held hrole rfl

/-- A byte received. -/
theorem Game.receive {v : Src} (i : Nat) (hc : role = .initiator → c) (hs : role = .initiator → s ∨ quiet)
    (h : ∀ e t u d j, brings i u →
      ((x.cycled .rd e t u d j).goto rest).Reaches role led c T True (w0 ++ wireBytes false [u])) :
    (x.goto (cycleOf role .rd v ++ rest)).Reaches role led c T s w0 :=
  g.cycle (i := i) hc (fun hrole _ => hs hrole) fun e t u d j hleaves => h e t u d j (hleaves.brought rfl)

end

end Sys2Proof.Machine
end

section
/-! SUPPORT. The loops of a frame (42_framer.md): bytes of the buffer sent and added up, bytes received, stored and added up. -/

namespace Sys2Proof.Machine

/-- An accumulator with `v` added. -/
def Block.adding (x : Block) (a : Acc) (v : Byte) : Block := x.withLocs (x.seq.locs.setAcc a (x.seq.locs.accVal a + v))

/-- `x` with what the next byte cycle overwrites. -/
def Block.between (x : Block) (out : Outputs) (t : Xport) (u : Byte) (d : Level) (j : Half) : Block :=
  { x with
    out := out
    xp := t
    seq.locs.b := u
    seq.locs.d := d
    seq.locs.j := j }

/-- Bytes written one after the other from buf[lo] on. -/
def Memory.writeRun : Nat → List Byte → Memory → Memory
  | _, [], m => m
  | lo, v :: vs, m => Memory.writeRun (lo + 1) vs (m.writeByte (bufOffset lo) v)

/-- The buffer with `vs` written from buf[lo] on. -/
def Block.storing (x : Block) (lo : Nat) (vs : List Byte) : Block := { x with buf := x.buf.writeRun lo vs }

theorem wireBytes_cons (driven : Bool) (v : Byte) (vs : List Byte) :
    wireBytes driven (v :: vs) = wireBytes driven [v] ++ wireBytes driven vs := by simp [wireBytes]

theorem Block.adding_adding (x : Block) (a : Acc) (v u : Byte) : (x.adding a v).adding a u = x.adding a (v + u) := by
  cases a <;> simp only [Block.adding, Block.withLocs, Locals.setAcc, Locals.accVal, BitVec.add_assoc]

section
variable {role : Role} {led c quiet : Prop} {brings : Nat → Byte → Prop} {Q : Wire → Block → Prop}
variable {T : Nat → Wire → Block → Prop} (g : Game role led c quiet brings Q T)
include g

/-- The bytes buf[lo] to buf[lo+n-1] sent and added up. -/
theorem Game.sends {a : Acc} {rest : List Line} (hc : role = .initiator → c) (n : Nat) :
    ∀ {lo : Nat} {s : Prop} {w0 : Wire} {x : Block} {vs : List Byte}, x.bufBytes lo n = vs →
      (∀ out t u d j, (((x.adding a (cksum vs)).between out t u d j).goto rest).Reaches role led c T (s ∨ 0 < n)
        (w0 ++ wireBytes true vs)) →
      (x.goto ((List.range' lo n).flatMap (fun j => cycleOf role .wr (.buf j) ++ [Line.addBuf a j]) ++ rest)).Reaches
        role led c T s w0 := by
  induction n with
  | zero =>
    rintro lo s w0 x _ rfl h
    have hnone := (h x.out x.xp x.seq.locs.b x.seq.locs.d x.seq.locs.j).mono (s' := s) (by simp)
    rw [Block.bufBytes, List.range'_zero, List.map_nil, wireBytes, List.flatMap_nil, List.append_nil] at hnone
    have hself : (x.adding a (cksum [])).between x.out x.xp x.seq.locs.b x.seq.locs.d x.seq.locs.j = x := by
      cases a <;> simp [Block.adding, Block.between, cksum, Block.withLocs, Locals.setAcc, Locals.accVal]
    rw [hself] at hnone
    exact hnone
  | succ n ih =>
    rintro lo s w0 x _ rfl h
    rw [List.range'_succ, List.flatMap_cons, List.append_assoc, List.append_assoc]
    refine g.send hc fun e t u d j _ => g.plain (.addBuf a lo) (fun _ => ⟨nofun, nofun⟩) nofun ?_
    refine ih (vs := x.bufBytes (lo + 1) n) rfl fun out t' u' d' j' => ?_
    have hbytes : x.bufBytes lo (n + 1) = x.readBuf lo :: x.bufBytes (lo + 1) n := rfl
    have hnext := (h out t' u' d' j').mono (s' := True ∨ 0 < n) (by simp)
    rw [hbytes, cksum, ← Block.adding_adding, wireBytes_cons, ← List.append_assoc] at hnext
    have hblock (v : Byte) : (((x.cycled .wr e t u d j).did (.addBuf a lo)).adding a v).between out t' u' d' j' =
        ((x.adding a (x.readBuf lo)).adding a v).between out t' u' d' j' := by
      rw [Block.did_addBuf]
      cases a <;> rfl
    rw [hblock]
    exact hnext

/-- Bytes received, stored from buf[lo] on and added up. -/
theorem Game.stores {rest : List Line} (hc : role = .initiator → c) (n : Nat) :
    ∀ {lo i : Nat} {s : Prop} {w0 : Wire} {x : Block}, (role = .initiator → s ∨ quiet) →
      (∀ vs out t u d j, vs.length = n → (∀ k < n, brings (i + k) (vs.getD k 0#8)) →
        ((((x.storing lo vs).adding .acc (cksum vs)).between out t u d j).goto rest).Reaches role led c T (s ∨ 0 < n)
          (w0 ++ wireBytes false vs)) →
      (x.goto ((List.range' lo n).flatMap (fun j => cycleOf role .rd .locB ++ [Line.storeB j, Line.addB]) ++ rest)).Reaches
        role led c T s w0 := by
  induction n with
  | zero =>
    intro lo i s w0 x _ h
    have hnone := (h [] x.out x.xp x.seq.locs.b x.seq.locs.d x.seq.locs.j rfl nofun).mono (s' := s) (by simp)
    rw [wireBytes, List.flatMap_nil, List.append_nil] at hnone
    have hself : ((x.storing lo []).adding .acc (cksum [])).between x.out x.xp x.seq.locs.b x.seq.locs.d x.seq.locs.j = x := by
      simp [Block.adding, Block.between, cksum, Block.withLocs, Locals.setAcc, Locals.accVal, Block.storing, Memory.writeRun]
    rw [hself] at hnone
    exact hnone
  | succ n ih =>
    intro lo i s w0 x hs h
    rw [List.range'_succ, List.flatMap_cons, List.append_assoc, List.append_assoc]
    refine g.receive i hc hs fun e t u d j hu => ?_
    refine g.plain (.storeB lo) (fun _ => ⟨nofun, nofun⟩) nofun <| g.plain .addB (fun _ => ⟨nofun, nofun⟩) nofun ?_
    refine ih (i := i + 1) (fun _ => .inl trivial) fun vs out t' u' d' j' hlen hvs => ?_
    have hnext := (h (u :: vs) out t' u' d' j' (by rw [List.length_cons, hlen]) fun k hk => ?_).mono
      (s' := True ∨ 0 < n) (by simp)
    · have hblock : (((((x.cycled .rd e t u d j).did (.storeB lo)).did .addB).storing (lo + 1) vs).adding .acc
          (cksum vs)).between out t' u' d' j' =
          (((x.storing lo (u :: vs)).adding .acc u).adding .acc (cksum vs)).between out t' u' d' j' := by
        rw [Block.did_storeB, Block.did_addB]
        rfl
      rw [cksum, ← Block.adding_adding, wireBytes_cons, ← List.append_assoc] at hnext
      rw [hblock]
      exact hnext
    · cases k with
      | zero => exact hu
      | succ k =>
        have hbrings := hvs k (by omega)
        rwa [Nat.add_assoc, Nat.add_comm 1] at hbrings

end

end Sys2Proof.Machine
end

section
/-! SUPPORT. The last lines of a frame (42_framer.md): the results, and finish. -/

namespace Sys2Proof.Machine

/-- The block once it has latched a command (30_encoding.md R124), its position aside. -/
def Block.latched (b : Block) (i : Instr) : Block :=
  { b with
    regs.result := .zero
    regs.events := b.regs.events &&& ~~~(EventBit.done.mask ||| EventBit.err.mask)
    regs.statusOp := i.opcode
    seq.opv := i.opcode
    seq.lvlv := i.lvl
    seq.argv := i.arg
    seq.mid := false }

theorem Block.accept_eq (b : Block) (i : Instr) (prog : List Line) : b.accept i prog = (b.latched i).goto prog := rfl

/-- An accumulator set to `v`. -/
def Block.totalled (x : Block) (a : Acc) (v : Byte) : Block := x.withLocs (x.seq.locs.setAcc a v)

theorem Block.adding_clear (x : Block) (a : Acc) (v : Byte) : (x.did (.clearAcc a)).adding a v = x.totalled a v := by
  cases a <;> simp [Block.adding, Block.totalled, Block.withLocs, Locals.setAcc, Locals.accVal]

section
variable {role : Role} {led c quiet : Prop} {brings : Nat → Byte → Prop} {Q : Wire → Block → Prop}
variable {T : Nat → Wire → Block → Prop} (g : Game role led c quiet brings Q T) {w0 : Wire} {y : Block}
include g

/-- SEND_CMD after its ack. -/
theorem Game.endSendCmd (h : ∀ w z, y.EndsAs role c w0
      ⟨matchCode (decide (y.seq.locs.b = y.seq.locs.acc)), decide (y.seq.locs.b = y.seq.locs.acc), y.regs.result.isMatchB, 4#16⟩
      { y.regs.cksum with calcA := y.seq.locs.acc, rxackA := y.seq.locs.b } w z → Q w z) :
    (y.goto [.setCalc, .setRxack, .matchB, .count 4, .finishMatchB]).Reaches role led c T True w0 :=
  g.plain .setCalc (fun _ => ⟨nofun, nofun⟩) nofun <| g.plain .setRxack (fun _ => ⟨nofun, nofun⟩) nofun <|
    g.plain .matchB (fun _ => ⟨nofun, nofun⟩) nofun <| g.plain (.count 4) (fun _ => ⟨nofun, nofun⟩) nofun <|
    g.ends (y := y) .finishMatchB (fun _ => ⟨nofun, nofun⟩) (fun x hx => by rw [Block.runLine, hx]; rfl) rfl
      (by simp only [Block.did_setCalc, Block.did_setRxack, Block.did_matchB, Block.did_count, Block.closing]) trivial h

/-- EXT_PACKET after its second ack. -/
theorem Game.endExtPacket (h : ∀ w z, y.EndsAs role c w0
      ⟨.ok, decide (y.readBuf 4 = y.seq.locs.accA), decide (y.readBuf 16 = y.seq.locs.accB), 17#16⟩
      ⟨y.seq.locs.accA, y.readBuf 4, y.seq.locs.accB, y.readBuf 16⟩ w z → Q w z) :
    (y.goto [.cksumStageA, .cksumStageB, .matchStageA, .matchStageB, .count 17, .finish .ok]).Reaches role led c T True w0 :=
  g.plain .cksumStageA (fun _ => ⟨nofun, nofun⟩) nofun <| g.plain .cksumStageB (fun _ => ⟨nofun, nofun⟩) nofun <|
    g.plain .matchStageA (fun _ => ⟨nofun, nofun⟩) nofun <| g.plain .matchStageB (fun _ => ⟨nofun, nofun⟩) nofun <|
    g.plain (.count 17) (fun _ => ⟨nofun, nofun⟩) nofun <|
    g.ends (y := y) (.finish .ok) (fun _ => ⟨nofun, nofun⟩) (fun _ _ => rfl) rfl (by
      simp only [Block.did_cksumStageA, Block.did_cksumStageB, Block.did_matchStageA, Block.did_matchStageB, Block.did_count,
        Block.readBuf, Block.closing]
      rfl) trivial h

/-- READ_RESP after its last byte. -/
theorem Game.endReadResp (h : ∀ w z, y.EndsAs role c w0
      ⟨.ok, decide (y.seq.locs.b = y.seq.locs.acc), y.regs.result.isMatchB, y.seq.locs.len⟩
      { y.regs.cksum with calcA := y.seq.locs.acc, rxackA := y.seq.locs.b } w z → Q w z) :
    (y.goto [.setCalc, .setRxack, .matchB, .countLen, .finish .ok]).Reaches role led c T True w0 :=
  g.plain .setCalc (fun _ => ⟨nofun, nofun⟩) nofun <| g.plain .setRxack (fun _ => ⟨nofun, nofun⟩) nofun <|
    g.plain .matchB (fun _ => ⟨nofun, nofun⟩) nofun <| g.plain .countLen (fun _ => ⟨nofun, nofun⟩) nofun <|
    g.ends (y := y) (.finish .ok) (fun _ => ⟨nofun, nofun⟩) (fun _ _ => rfl) rfl
      (by simp only [Block.did_setCalc, Block.did_setRxack, Block.did_matchB, Block.did_countLen, Block.closing]) trivial h

/-- READ_RESP after an overrun. -/
theorem Game.endOverrun (h : ∀ w z, y.EndsAs role c w0
      ⟨.overrun, y.regs.result.isMatch, y.regs.result.isMatchB, 0#16⟩ y.regs.cksum w z → Q w z) :
    (y.goto overrunTail).Reaches role led c T True w0 :=
  g.plain (.count 0) (fun _ => ⟨nofun, nofun⟩) nofun <|
    g.ends (y := y) (.finish .overrun) (fun _ => ⟨nofun, nofun⟩) (fun _ _ => rfl) rfl (by rfl) trivial h

/-- A responder's operation with a checksum after it has sent that. -/
theorem Game.endRsp (h : ∀ w z, y.EndsAs role c w0
      ⟨.ok, y.regs.result.isMatch, y.regs.result.isMatchB, y.seq.locs.n⟩ { y.regs.cksum with calcA := y.seq.locs.acc } w z → Q w z) :
    (y.goto [.setCalc, .countN, .finish .ok]).Reaches role led c T True w0 :=
  g.plain .setCalc (fun _ => ⟨nofun, nofun⟩) nofun <| g.plain .countN (fun _ => ⟨nofun, nofun⟩) nofun <|
    g.ends (y := y) (.finish .ok) (fun _ => ⟨nofun, nofun⟩) (fun _ _ => rfl) rfl (by rfl) trivial h

end

end Sys2Proof.Machine
end

section
/-! SUPPORT. SEND_CMD and EXT_PACKET (42_framer.md R250, R270) line by line to their ends. -/

namespace Sys2Proof.Machine

/-- How SEND_CMD ends with the ack `ack` (42_framer.md R250). -/
structure Block.SendCmdEnd (b : Block) (ack : Byte) (w : Wire) (z : Block) : Prop where
  finished : z.finishedWith ⟨if ack = cksum (b.bufBytes 0 4) then .ok else .cksumMismatch,
    decide (ack = cksum (b.bufBytes 0 4)), false, 4#16⟩ 0x10#5
  sums : z.regs.cksum = { b.regs.cksum with calcA := cksum (b.bufBytes 0 4), rxackA := ack }
  dataOe : z.out.dataOe = false
  hsO : z.out.hsO = (!b.cfg.hsAssert)
  sckO : z.out.sckO = true
  buf : z.buf = b.buf
  bufEpoch : z.bufEpoch = b.bufEpoch
  wire : w = wireBytes true (b.bufBytes 0 4) ++ wireBytes false [ack]

/-- How EXT_PACKET ends with the acks `ackA` and `ackB` (42_framer.md R270). -/
structure Block.ExtPacketEnd (b : Block) (ackA ackB : Byte) (w : Wire) (z : Block) : Prop where
  finished : z.finishedWith ⟨.ok, decide (ackA = cksum (b.bufBytes 0 4)), decide (ackB = cksum (b.bufBytes 5 11)), 17#16⟩ 0x12#5
  sums : z.regs.cksum = ⟨cksum (b.bufBytes 0 4), ackA, cksum (b.bufBytes 5 11), ackB⟩
  dataOe : z.out.dataOe = false
  hsO : z.out.hsO = (!b.cfg.hsAssert)
  sckO : z.out.sckO = true
  buf : z.buf = (b.buf.writeByte (bufOffset 4) ackA).writeByte (bufOffset 16) ackB
  bufEpoch : z.bufEpoch = b.bufEpoch
  wire : w = wireBytes true (b.bufBytes 0 4) ++ wireBytes false [ackA] ++ wireBytes true (b.bufBytes 5 11) ++
    wireBytes false [ackB]

/-- The acks are where the operation stored them. -/
theorem Block.ExtPacketEnd.acks {b : Block} {ackA ackB : Byte} {w : Wire} {z : Block} (h : b.ExtPacketEnd ackA ackB w z) :
    z.readBuf 4 = ackA ∧ z.readBuf 16 = ackB := by
  rw [Block.readBuf, Block.readBuf, h.buf]
  exact ⟨(Memory.readByte_writeByte_other _ _ _ (by decide)).trans (Memory.readByte_writeByte_same _ _ _ _),
    Memory.readByte_writeByte_same _ _ _ _⟩

theorem sendCmdProg_eq : sendCmdProg = .clearAcc .acc :: ((List.range' 0 4).flatMap (fun j => cycleOf .initiator .wr (.buf j) ++
    [Line.addBuf .acc j]) ++ (cycleOf .initiator .rd .locB ++ [.setCalc, .setRxack, .matchB, .count 4, .finishMatchB])) := by
  rw [sendCmdProg, List.range_eq_range', List.append_assoc, List.append_assoc]
  rfl

/-- A stage of EXT_PACKET with `rest` to follow: `n` bytes from buf[lo] on, and the ack to buf[k]. -/
def extStage (a : Acc) (lo n k : Nat) (rest : List Line) : List Line :=
  .clearAcc a :: ((List.range' lo n).flatMap (fun j => cycleOf .initiator .wr (.buf j) ++ [Line.addBuf a j]) ++
    (cycleOf .initiator .rd .locB ++ .storeB k :: rest))

/-- `x` after a stage of EXT_PACKET with the sum `sum` and the ack `ack`; the rest is what its last byte cycle left. -/
def Block.staged (x : Block) (a : Acc) (sum : Byte) (k : Nat) (ack : Byte) (e : Level) (t : Xport) (d : Level) (j : Half) : Block :=
  { x with
    out := ⟨true, e, false, !x.cfg.hsAssert⟩
    xp := t
    seq.locs := { x.seq.locs.setAcc a sum with b := ack, d, j }
    buf := x.buf.writeByte (bufOffset k) ack }

theorem extPacketProg_eq : extPacketProg = extStage .accA 0 4 4 (.delay .extSettle :: extStage .accB 5 11 16
    [.cksumStageA, .cksumStageB, .matchStageA, .matchStageB, .count 17, .finish .ok]) := by
  rw [extPacketProg, List.range_eq_range']
  simp only [List.append_assoc]
  rfl

theorem Block.bufBytes_writeBuf {k lo n : Nat} (x : Block) (v : Byte) (h : k < lo ∨ lo + n ≤ k) :
    (x.writeBuf k v).bufBytes lo n = x.bufBytes lo n :=
  List.map_congr_left fun j hj => by
    obtain ⟨hlo, hhi⟩ := List.mem_range'_1.mp hj
    exact Memory.readByte_writeByte_other _ _ _ (by simp only [bufOffset]; omega)

theorem Block.bufBytes_staged {x : Block} {a : Acc} {sum ack : Byte} {k lo n : Nat} {e d : Level} {t : Xport} {j : Half}
    (h : k < lo ∨ lo + n ≤ k) : (x.staged a sum k ack e t d j).bufBytes lo n = x.bufBytes lo n :=
  x.bufBytes_writeBuf ack h

theorem Block.bufBytes_latched (b : Block) (i : Instr) (lo n : Nat) : (b.latched i).bufBytes lo n = b.bufBytes lo n := rfl

section
variable {led quiet : Prop} {brings : Nat → Byte → Prop} {Q : Wire → Block → Prop} {T : Nat → Wire → Block → Prop}

/-- SEND_CMD. -/
theorem Game.sendCmd (g : Game .initiator led True quiet brings Q T) {b : Block} {arg : Half} {lvl : Bool}
    (h : ∀ ack w z, brings 0 ack → b.SendCmdEnd ack w z → Q w z) :
    (b.accept (.sendCmd arg lvl) sendCmdProg).Reaches .initiator led True T False [] := by
  rw [Block.accept_eq, sendCmdProg_eq]
  refine g.plain (.clearAcc .acc) (fun _ => ⟨nofun, nofun⟩) nofun <|
    g.sends (vs := b.bufBytes 0 4) (fun _ => trivial) 4 rfl fun out t u d j => ?_
  rw [Block.adding_clear]
  refine g.receive 0 (fun _ => trivial) (fun _ => .inl (.inr (by decide))) fun e t ack d j hack => ?_
  refine g.endSendCmd fun w z hz => h ack w z hack ⟨?_, hz.sums, hz.dataOe, hz.hsO, hz.sckO, hz.buf, hz.bufEpoch,
    (hz.clean trivial nofun).1⟩
  rw [show (if ack = cksum (b.bufBytes 0 4) then ResultCode.ok else .cksumMismatch) =
    matchCode (decide (ack = cksum (b.bufBytes 0 4))) by simp [matchCode]]
  exact hz.finished

/-- A stage of EXT_PACKET (42_framer.md R270): `n` bytes from buf[lo] on sent and added up, the ack stored in buf[k]. -/
theorem Game.extStage (g : Game .initiator led True quiet brings Q T) {x : Block} {a : Acc} {lo n k i : Nat} {rest : List Line}
    {s : Prop} {w0 : Wire} (hn : 0 < n) (h : ∀ e t d j ack, brings i ack →
      ((x.staged a (cksum (x.bufBytes lo n)) k ack e t d j).goto rest).Reaches .initiator led True T True
        (w0 ++ wireBytes true (x.bufBytes lo n) ++ wireBytes false [ack])) :
    (x.goto (extStage a lo n k rest)).Reaches .initiator led True T s w0 := by
  refine g.plain (.clearAcc a) (fun _ => ⟨nofun, nofun⟩) nofun <|
    g.sends (vs := x.bufBytes lo n) (fun _ => trivial) n rfl fun out t u d j => ?_
  rw [Block.adding_clear]
  refine g.receive i (fun _ => trivial) (fun _ => .inl (.inr hn)) fun e t ack d j hack => ?_
  refine g.plain (.storeB k) (fun _ => ⟨nofun, nofun⟩) nofun ?_
  have hend := h e t d (BitVec.ofNat 16 k) ack hack
  rw [Block.did_storeB]
  cases a <;> exact hend

/-- EXT_PACKET. -/
theorem Game.extPacket (g : Game .initiator led True quiet brings Q T) {b : Block} {arg : Half} {lvl : Bool}
    (h : ∀ ackA ackB w z, brings 0 ackA → brings 1 ackB → b.ExtPacketEnd ackA ackB w z → Q w z) :
    (b.accept (.extPacket arg lvl) extPacketProg).Reaches .initiator led True T False [] := by
  rw [Block.accept_eq, extPacketProg_eq]
  refine g.extStage (i := 0) (by decide) fun eA tA dA jA ackA hackA => g.delay <|
    g.extStage (i := 1) (by decide) fun eB tB dB jB ackB hackB => g.endExtPacket fun w z hz => ?_
  rw [Block.bufBytes_staged (.inl (by decide)), Block.bufBytes_latched, Block.bufBytes_latched] at hz
  generalize hy : Block.staged _ _ _ 16 _ _ _ _ _ = y at hz
  have hread4 : y.readBuf 4 = ackA := by
    rw [← hy]
    exact (Memory.readByte_writeByte_other _ _ _ (by decide)).trans (Memory.readByte_writeByte_same _ _ _ _)
  have hread16 : y.readBuf 16 = ackB := by
    rw [← hy]
    exact Memory.readByte_writeByte_same _ _ _ _
  have haccA : y.seq.locs.accA = cksum (b.bufBytes 0 4) := by rw [← hy]; rfl
  have haccB : y.seq.locs.accB = cksum (b.bufBytes 5 11) := by rw [← hy]; rfl
  rw [hread4, hread16, haccA, haccB] at hz
  subst hy
  exact h ackA ackB w z hackA hackB ⟨hz.finished, hz.sums, hz.dataOe, hz.hsO, hz.sckO, hz.buf, hz.bufEpoch,
    (hz.clean trivial nofun).1⟩

end

end Sys2Proof.Machine
end

section
/-! SUPPORT. SEND_CMD and EXT_PACKET over every schedule (O40, O42). -/

namespace Sys2Proof.Machine

/-- An accepted initiator's operation starts out ready. -/
theorem Block.Ready.accept {led : Prop} {b : Block} (hinv : b.Inv) (hr : b.rstN = true) (hidle : b.busy = false)
    (hrole : b.cfg.role = .initiator) (i : Instr) (prog : List Line) : (b.accept i prog).Ready .initiator led :=
  ⟨hr, rfl, hrole, hinv.tmr_of_idle hidle,
    fun harmed => (by cases (hinv.initiator hrole).1.symm.trans harmed), nofun⟩

/-- What all ends of an operation are, its end is, and so is its wire if the block is alone. -/
theorem exec_ends {s t : State} {i : Instr} {b b' x : Block} {role : Role} {c : Prop} {Q : Wire → Block → Prop}
    (h : s.readyFor i b) (hinv : b.Inv) (henv : ∀ e ∈ s.env, e.isClk = true) (hexec : exec i s = .next t)
    (hget : t.get s.port = some b') (hdone : b'.busy = false) (hx : x.Ready role False)
    (hfollows : (b.accept i (programOf b.cfg i)).Follows c [] [] x) (hall : x.Reaches role False c (Block.AllEnd Q) False []) :
    ∃ w, Q w b' ∧ ∀ ps, s.far = none → s.port = .near → s.env = clks .near ps →
      (b.submit i (programOf b.cfg i)).wire ps = w := by
  obtain ⟨⟨-, hr, hidle⟩, hcheck⟩ := id h
  obtain ⟨w, hran, hwire⟩ := exec_ran_wire h henv hexec hget
  have hprog := programOf_runnable ((b.check_ok_iff i).mp hcheck).1
  exact ⟨w, hall hx 0 [] _ (by decide) False.elim hfollows (hinv.accept hidle hprog) hr w b' hran hdone, hwire⟩

/-- `exec_ends` for an initiator's operation: the walk starts at the accepting block. -/
theorem exec_ends_initiator {s t : State} {i : Instr} {b b' : Block} {Q : Wire → Block → Prop}
    (h : s.readyFor i b) (hinv : b.Inv) (henv : ∀ e ∈ s.env, e.isClk = true) (hexec : exec i s = .next t)
    (hget : t.get s.port = some b') (hdone : b'.busy = false) (hrole : b.cfg.role = .initiator)
    (hall : (b.accept i (programOf b.cfg i)).Reaches .initiator False True (Block.AllEnd Q) False []) :
    ∃ w, Q w b' ∧ ∀ ps, s.far = none → s.port = .near → s.env = clks .near ps →
      (b.submit i (programOf b.cfg i)).wire ps = w := by
  obtain ⟨⟨-, hr, hidle⟩, -⟩ := id h
  exact exec_ends h hinv henv hexec hget hdone (.accept hinv hr hidle hrole _ _) (.refl [] _) hall

/-- Settles O40: the walk through SEND_CMD, of all its runs. -/
theorem sendCmdResult : Obligations.SendCmdResult := by
  unfold Obligations.SendCmdResult
  intro arg lvl s t b b' h hinv henv hexec hget hdone
  have hrole : b.cfg.role = .initiator := by
    simpa [Instr.wf, Instr.roleOk, Instr.argOk] using ((b.check_ok_iff _).mp h.2).1
  obtain ⟨w, ⟨ack, hz⟩, hwire⟩ := exec_ends_initiator h hinv henv hexec hget hdone hrole
    (Block.allEnd_game.sendCmd (quiet := False) (Q := fun w z => ∃ ack, b.SendCmdEnd ack w z) fun ack w z _ hz => ⟨ack, hz⟩)
  have hack : b'.regs.cksum.rxackA = ack := by rw [hz.sums]
  rw [hack]
  exact ⟨hz.finished, hz.sums, hz.dataOe, hz.hsO, hz.sckO, hz.buf, hz.bufEpoch, fun ps hfar hport hclks =>
    (hwire ps hfar hport hclks).trans hz.wire⟩

/-- Settles O42: the walk through EXT_PACKET, of all its runs. -/
theorem extPacketResult : Obligations.ExtPacketResult := by
  unfold Obligations.ExtPacketResult
  intro arg lvl s t b b' h hinv henv hexec hget hdone
  have hrole : b.cfg.role = .initiator := by
    simpa [Instr.wf, Instr.roleOk, Instr.argOk] using ((b.check_ok_iff _).mp h.2).1
  obtain ⟨w, ⟨ackA, ackB, hz⟩, hwire⟩ := exec_ends_initiator h hinv henv hexec hget hdone hrole
    (Block.allEnd_game.extPacket (quiet := False) (Q := fun w z => ∃ ackA ackB, b.ExtPacketEnd ackA ackB w z)
      fun ackA ackB w z _ _ hz => ⟨ackA, ackB, hz⟩)
  obtain ⟨hA, hB⟩ := hz.acks
  rw [hA, hB]
  refine ⟨hz.finished, hz.sums, hz.dataOe, hz.hsO, hz.sckO, fun off hoff => ?_, fun ps hfar hport hclks =>
    (hwire ps hfar hport hclks).trans hz.wire⟩
  obtain ⟨h4, h16⟩ := not_or.mp hoff
  rw [hz.buf, hz.bufEpoch, Memory.readByte_writeByte_other _ _ _ h16, Memory.readByte_writeByte_other _ _ _ h4]

end Sys2Proof.Machine
end

section
/-! SUPPORT. RSP_READ_CKSUM and RSP_WRITE_CKSUM (42_framer.md R280, R290) line by line to their ends. -/

namespace Sys2Proof.Machine

/-- How a responder's operation of opcode `op` ends that has counted `n`, sent `sum` last and left `mem` in the buffer, with
`v` having crossed DATA. -/
structure Block.RspEnd (c : Prop) (b : Block) (op : BitVec 5) (n : Half) (mem : Memory) (sum : Byte) (v w : Wire) (z : Block) :
    Prop where
  isRole : z.cfg.role = .responder
  finished : z.finishedWith ⟨.ok, false, false, n⟩ op
  sums : z.regs.cksum = { b.regs.cksum with calcA := sum }
  dataOe : z.out.dataOe = true
  hsO : z.out.hsO = (!b.cfg.hsAssert)
  buf : z.buf = mem
  bufEpoch : z.bufEpoch = b.bufEpoch
  clean : c → z.event .strayClk = false → w = v ∧ (z.sync.sckPrev = true → z.out.dataO = sum.getLsbD 7)

/-- The lines with which a responder's operation ends: its sum sent, then its results. -/
def rspTail : List Line := cycleOf .responder .wr .acc ++ [.setCalc, .countN, .finish .ok]

theorem rspReadCksumProg_eq (n : Nat) : rspReadCksumProg n = .setN :: .clearAcc .acc ::
    ((List.range' 0 n).flatMap (fun j => cycleOf .responder .rd .locB ++ [Line.storeB j, Line.addB]) ++ rspTail) := by
  rw [rspReadCksumProg, List.range_eq_range']
  simp only [List.append_assoc]
  rfl

/-- The length bytes that head a responder's frame (20_memory.md R100). -/
def rspPrefix : Rev → List Line
  | .revA => cycleOf .responder .wr .nLo ++ cycleOf .responder .wr .nHi
  | .revB => cycleOf .responder .wr .nLo

theorem rspWriteCksumProg_eq (v : Rev) (n : Nat) : rspWriteCksumProg v n = .setN :: (rspPrefix v ++ .clearAcc .acc ::
    ((List.range' 0 n).flatMap (fun j => cycleOf .responder .wr (.buf j) ++ [Line.addBuf .acc j]) ++ rspTail)) := by
  cases v <;>
  · unfold rspWriteCksumProg
    rw [List.range_eq_range']
    simp only [List.append_assoc]
    rfl

theorem wireBytes_append (driven : Bool) (vs us : List Byte) :
    wireBytes driven (vs ++ us) = wireBytes driven vs ++ wireBytes driven us := List.flatMap_append

theorem Block.cycled_eq (x : Block) (dir : Dir) (e : Level) (t : Xport) (u : Byte) (d : Level) (j : Half) :
    x.cycled dir e t u d j = x.between ⟨true, e, dir.drives, !x.cfg.hsAssert⟩ t u d j := rfl

theorem Block.between_between (x : Block) (o o' : Outputs) (t t' : Xport) (u u' : Byte) (d d' : Level) (j j' : Half) :
    (x.between o t u d j).between o' t' u' d' j' = x.between o' t' u' d' j' := rfl

section
variable {led c quiet : Prop} {brings : Nat → Byte → Prop} {Q : Wire → Block → Prop} {T : Nat → Wire → Block → Prop}
variable (g : Game .responder led c quiet brings Q T) {b x : Block} {op : BitVec 5} {n : Half} {mem : Memory} {sum : Byte} {s : Prop} {w0 : Wire}
include g

/-- The last lines of a responder's operation. -/
theorem Game.rspTail (hop : x.regs.statusOp = op) (hcksum : x.regs.cksum = b.regs.cksum) (hcfg : x.cfg = b.cfg)
    (hepoch : x.bufEpoch = b.bufEpoch) (hbuf : x.buf = mem) (hres : x.regs.result = .zero) (hn : x.seq.locs.n = n) (hsum : x.seq.locs.acc = sum)
    (h : ∀ w z, b.RspEnd c op n mem sum (w0 ++ wireBytes true [sum]) w z → Q w z) :
    (x.goto rspTail).Reaches .responder led c T s w0 := by
  subst hop hn hsum
  refine g.send nofun fun e t u d j he => g.endRsp fun w z hz => ?_
  have hfinished := hz.finished
  replace hfinished : z.finishedWith ⟨.ok, x.regs.result.isMatch, x.regs.result.isMatchB, x.seq.locs.n⟩ x.regs.statusOp := hfinished
  rw [hres] at hfinished
  refine h w z ⟨hz.isRole, hfinished, hz.sums.trans ?_, hz.dataOe, hz.hsO.trans ?_, hz.buf.trans hbuf, hz.bufEpoch.trans hepoch, fun hc hstray => ?_⟩
  · rw [← hcksum]; rfl
  · rw [← hcfg]; rfl
  · obtain ⟨hw, hdata⟩ := hz.clean hc fun _ => hstray
    exact ⟨hw, fun hprev => (hdata hprev).trans (he rfl)⟩

/-- RSP_READ_CKSUM, from any state of the transport. -/
theorem Game.rspReadCksum {t : Xport} {lvl : Bool}
    (h : ∀ vs w z, vs.length = n.toNat → (∀ k < n.toNat, brings k (vs.getD k 0#8)) →
      b.RspEnd c 0x18#5 n (b.buf.writeRun 0 vs) (cksum vs) (wireBytes false vs ++ wireBytes true [cksum vs]) w z → Q w z) :
    (({ b with xp := t }.latched (.rspReadCksum n lvl)).goto (rspReadCksumProg n.toNat)).Reaches .responder led c T False [] := by
  rw [rspReadCksumProg_eq]
  refine g.plain .setN (fun _ => ⟨nofun, nofun⟩) nofun <| g.plain (.clearAcc .acc) (fun _ => ⟨nofun, nofun⟩) nofun <|
    g.stores nofun n.toNat (i := 0) nofun fun vs out t u d j hlen hvs => ?_
  refine g.rspTail (b := b) (op := 0x18#5) (n := n) (mem := b.buf.writeRun 0 vs) (sum := cksum vs) rfl rfl ?_ ?_ ?_ rfl rfl ?_ fun w z hz =>
    h vs w z hlen (by simpa using hvs) hz
  iterate 3 dsimp only [Block.between, Block.adding, Block.storing, Block.withLocs, Block.did_setN, Block.did_clearAcc, Block.latched]
  exact BitVec.zero_add _

/-- The length bytes sent. -/
theorem Game.rspPrefix {v : Rev} {rest : List Line} (h : ∀ out t u d j, ((x.between out t u d j).goto rest).Reaches .responder led c T
      True (w0 ++ wireBytes true (lenPrefix v x.seq.locs.n))) :
    (x.goto (rspPrefix v ++ rest)).Reaches .responder led c T s w0 := by
  cases v with
  | revA =>
    rw [Machine.rspPrefix, List.append_assoc]
    refine g.send nofun fun e t u d j _ => g.send nofun fun e' t' u' d' j' _ => ?_
    rw [Block.cycled_eq, Block.cycled_eq, Block.between_between, List.append_assoc]
    exact h _ _ _ _ _
  | revB => exact g.send nofun fun e t u d j _ => h _ _ _ _ _

/-- RSP_WRITE_CKSUM, from any state of the transport. -/
theorem Game.rspWriteCksum {t : Xport} {lvl : Bool}
    (h : ∀ w z, b.RspEnd c 0x19#5 n b.buf (cksum (b.bufBytes 0 n.toNat)) (wireBytes true (lenPrefix b.cfg.rev n ++
      b.bufBytes 0 n.toNat ++ [cksum (b.bufBytes 0 n.toNat)])) w z → Q w z) :
    (({ b with xp := t }.latched (.rspWriteCksum n lvl)).goto (rspWriteCksumProg b.cfg.rev n.toNat)).Reaches
      .responder led c T False [] := by
  rw [rspWriteCksumProg_eq]
  refine g.plain .setN (fun _ => ⟨nofun, nofun⟩) nofun <| g.rspPrefix fun out t u d j =>
    g.plain (.clearAcc .acc) (fun _ => ⟨nofun, nofun⟩) nofun <|
    g.sends (vs := b.bufBytes 0 n.toNat) nofun n.toNat rfl fun out t u d j => ?_
  refine g.rspTail (b := b) (op := 0x19#5) (n := n) (mem := b.buf) (sum := cksum (b.bufBytes 0 n.toNat))
    rfl rfl ?_ ?_ ?_ rfl rfl ?_ fun w z hz => h w z ?_
  iterate 3 dsimp only [Block.between, Block.adding, Block.withLocs, Block.did_setN, Block.did_clearAcc, Block.latched]
  · exact BitVec.zero_add _
  · rw [wireBytes_append, wireBytes_append]
    exact hz

end

end Sys2Proof.Machine
end

section
/-! SUPPORT. RSP_READ_CKSUM and RSP_WRITE_CKSUM over every schedule (O43, O44). -/

namespace Sys2Proof.Machine

/-! ## Bytes written one after the other -/

theorem Memory.readByte_writeRun_outside (e : Epoch) {off : Nat} (vs : List Byte) : ∀ {lo : Nat} (m : Memory),
    (off < bufOffset lo ∨ bufOffset (lo + vs.length) ≤ off) → (m.writeRun lo vs).readByte e off = m.readByte e off := by
  induction vs with
  | nil => exact fun _ _ => rfl
  | cons v vs ih =>
    intro lo m h
    simp only [bufOffset, List.length_cons] at h ih
    exact (ih _ (by omega)).trans (Memory.readByte_writeByte_other _ _ _ (by simp only [bufOffset]; omega))

theorem Memory.readByte_writeRun (e : Epoch) (vs : List Byte) : ∀ (lo : Nat) (m : Memory),
    (List.range' lo vs.length).map (fun j => (m.writeRun lo vs).readByte e (bufOffset j)) = vs := by
  induction vs with
  | nil => exact fun _ _ => rfl
  | cons v vs ih =>
    intro lo m
    rw [List.length_cons, List.range'_succ, List.map_cons]
    refine congrArg₂ (· :: ·) ?_ (ih _ _)
    exact (Memory.readByte_writeRun_outside e vs _ (.inl (by simp only [bufOffset]; omega))).trans
      (Memory.readByte_writeByte_same _ _ _ _)

/-- The bytes last written are read. -/
theorem Block.bufBytes_writeRun {z : Block} {m : Memory} {vs : List Byte} {n : Nat} (hbuf : z.buf = m.writeRun 0 vs)
    (hlen : vs.length = n) : z.bufBytes 0 n = vs := by
  subst hlen
  have h := Memory.readByte_writeRun z.bufEpoch vs 0 m
  rwa [← hbuf] at h

/-- Bytes written in a run leave the others alone. -/
theorem Block.sameBytesExcept_writeRun {b z : Block} {vs : List Byte} {n : Nat} (hbuf : z.buf = b.buf.writeRun 0 vs)
    (hepoch : z.bufEpoch = b.bufEpoch) (hlen : vs.length = n) :
    b.sameBytesExcept z (fun off => bufOffset 0 ≤ off ∧ off < bufOffset n) := by
  intro off hoff
  rw [hbuf, hepoch]
  exact Memory.readByte_writeRun_outside _ vs _ (by rw [hlen, Nat.zero_add]; omega)

/-! ## A responder's operations -/

/-- The transport of a responder at a byte boundary. -/
def Xport.settled (t : Xport) : Xport := { t with bitcnt := 0#3, armed := false }

/-- `exec_ends` for a responder's operation: the walk starts from a byte boundary, and is the run's if that did. -/
theorem exec_ends_responder {s t : State} {i : Instr} {b b' : Block} {Q : Wire → Block → Prop}
    (h : s.readyFor i b) (hinv : b.Inv) (henv : ∀ e ∈ s.env, e.isClk = true) (hexec : exec i s = .next t)
    (hget : t.get s.port = some b') (hdone : b'.busy = false) (hrole : b.cfg.role = .responder)
    (hall : ((({ b with xp := b.xp.settled } : Block).latched i).goto (programOf b.cfg i)).Reaches .responder False b.atByteBoundary
      (Block.AllEnd Q) False []) :
    ∃ w, Q w b' ∧ ∀ ps, s.far = none → s.port = .near → s.env = clks .near ps →
      (b.submit i (programOf b.cfg i)).wire ps = w := by
  obtain ⟨⟨-, hr, hidle⟩, -⟩ := id h
  refine exec_ends h hinv henv hexec hget hdone ?_ ?_ hall
  · exact ⟨hr, rfl, hrole, hinv.tmr_of_idle hidle, nofun, fun _ => rfl⟩
  refine ⟨?_, fun hboundary _ => ⟨rfl, ?_, fun _ => rfl⟩⟩
  · rw [Block.accept_eq, Block.core_goto, Block.core_goto]
    rfl
  · obtain ⟨hcnt, harmed, -⟩ := hboundary
    exact congrArg₂ (fun c a => ({ b.xp with bitcnt := c, armed := a } : Xport)) hcnt harmed

/-- Settles O43: the walk through RSP_READ_CKSUM, of all its runs. -/
theorem rspReadCksumResult : Obligations.RspReadCksumResult := by
  unfold Obligations.RspReadCksumResult
  intro arg lvl s t b b' h hinv henv hexec hget hdone
  have hrole : b.cfg.role = .responder := by
    have hwf := ((b.check_ok_iff _).mp h.2).1
    simp_all [Instr.wf, Instr.roleOk]
  obtain ⟨w, ⟨vs, hlen, hz⟩, hwire⟩ := exec_ends_responder h hinv henv hexec hget hdone hrole
    (Block.allEnd_game.rspReadCksum (quiet := False) (Q := fun w z => ∃ vs, vs.length = arg.toNat ∧
      b.RspEnd b.atByteBoundary 0x18#5 arg (b.buf.writeRun 0 vs) (cksum vs) (wireBytes false vs ++ wireBytes true [cksum vs]) w z)
      fun vs w z hlen _ hz => ⟨vs, hlen, hz⟩)
  rw [Block.bufBytes_writeRun hz.buf hlen]
  exact ⟨hz.finished, hz.sums, hz.dataOe, hz.hsO, Block.sameBytesExcept_writeRun hz.buf hz.bufEpoch hlen, fun ps hfar hport hclks hboundary hstray =>
    (hwire ps hfar hport hclks).trans (hz.clean hboundary hstray).1⟩

/-- Settles O44: the walk through RSP_WRITE_CKSUM, of all its runs. -/
theorem rspWriteCksumResult : Obligations.RspWriteCksumResult := by
  unfold Obligations.RspWriteCksumResult
  intro arg lvl s t b b' h hinv henv hexec hget hdone
  have hrole : b.cfg.role = .responder := by
    have hwf := ((b.check_ok_iff _).mp h.2).1
    simp_all [Instr.wf, Instr.roleOk]
  obtain ⟨w, hz, hwire⟩ := exec_ends_responder h hinv henv hexec hget hdone hrole
    (Block.allEnd_game.rspWriteCksum (quiet := False) fun w z hz => hz)
  exact ⟨hz.finished, hz.sums, hz.dataOe, hz.hsO, hz.buf, hz.bufEpoch, fun ps hfar hport hclks hboundary hstray =>
    (hwire ps hfar hport hclks).trans (hz.clean hboundary hstray).1⟩

end Sys2Proof.Machine
end

section
/-! SUPPORT. READ_RESP (42_framer.md R260) line by line to its ends. -/

namespace Sys2Proof.Machine

/-- The lengths that the length bytes can announce (20_memory.md R100). -/
def announces (v : Rev) (len : Half) : Prop := v = .revB → len.toNat < 256

/-- How READ_RESP ends that was announced the payload `vs` of length `len`, followed by `trail` (42_framer.md R260). -/
structure Block.ReadRespEnd (b : Block) (len : Half) (vs : List Byte) (trail : Byte) (w : Wire) (z : Block) : Prop where
  finished : z.finishedWith ⟨.ok, decide (trail = cksum vs), false, len⟩ 0x11#5
  sums : z.regs.cksum = { b.regs.cksum with calcA := cksum vs, rxackA := trail }
  advlen : z.regs.advlen = len
  dataOe : z.out.dataOe = false
  hsO : z.out.hsO = (!b.cfg.hsAssert)
  sckO : z.out.sckO = true
  buf : z.buf = b.buf.writeRun 0 vs
  bufEpoch : z.bufEpoch = b.bufEpoch
  wire : w = wireBytes false (lenPrefix b.cfg.rev len ++ vs ++ [trail])

/-- How READ_RESP ends that was announced more than its cap, `len` (42_framer.md R260). -/
structure Block.OverrunEnd (b : Block) (len : Half) (w : Wire) (z : Block) : Prop where
  finished : z.finishedWith ⟨.overrun, false, false, 0#16⟩ 0x11#5
  sums : z.regs.cksum = b.regs.cksum
  advlen : z.regs.advlen = len
  dataOe : z.out.dataOe = false
  hsO : z.out.hsO = (!b.cfg.hsAssert)
  sckO : z.out.sckO = true
  buf : z.buf = b.buf
  bufEpoch : z.bufEpoch = b.bufEpoch
  wire : w = wireBytes false (lenPrefix b.cfg.rev len)

/-- The length bytes as READ_RESP takes them. -/
def respPrefix : Rev → List Line
  | .revA => cycleOf .initiator .rd .locB ++ .setLo :: (cycleOf .initiator .rd .locB ++ [.setHi, .joinLen])
  | .revB => cycleOf .initiator .rd .locB ++ [.widenLen]

theorem readRespProg_eq (v : Rev) : readRespProg v = .setCap :: (respPrefix v ++ [.setAdvlen, .testOverrun]) := by
  cases v <;> rfl

theorem readRespTail_eq (n : Nat) : readRespTail n = .clearAcc .acc ::
    ((List.range' 0 n).flatMap (fun j => cycleOf .initiator .rd .locB ++ [Line.storeB j, Line.addB]) ++
      (cycleOf .initiator .rd .locB ++ [.setCalc, .setRxack, .matchB, .countLen, .finish .ok])) := by
  rw [readRespTail, List.range_eq_range']
  simp only [List.append_assoc]
  rfl

/-- `x` once it knows the announced length; the rest is what its last byte cycle left. -/
def Block.announced (x : Block) (len : Half) (lo hi : Byte) (e : Level) (t : Xport) (u : Byte) (d : Level) (j : Half) : Block :=
  { x with
    out := ⟨true, e, false, !x.cfg.hsAssert⟩
    xp := t
    seq.locs.b := u
    seq.locs.d := d
    seq.locs.j := j
    seq.locs.lo := lo
    seq.locs.hi := hi
    seq.locs.len := len }

/-- `x` runs `b`'s READ_RESP, is past the prefix, and was announced `len`. -/
structure Block.PrefixRead (b : Block) (len : Half) (x : Block) : Prop where
  statusOp : x.regs.statusOp = 0x11#5
  result : x.regs.result = .zero
  sums : x.regs.cksum = b.regs.cksum
  advlen : x.regs.advlen = len
  len : x.seq.locs.len = len
  cfg : x.cfg = b.cfg
  buf : x.buf = b.buf
  bufEpoch : x.bufEpoch = b.bufEpoch
  out : ∃ e, x.out = ⟨true, e, false, !b.cfg.hsAssert⟩

/-- The announced length of two bytes. -/
theorem lenPrefix_append (hi lo : Byte) : lenPrefix .revA (hi ++ lo) = [lo, hi] :=
  congrArg₂ (fun a b => [a, b]) BitVec.extractLsb'_append_eq_right BitVec.extractLsb'_append_eq_left

/-- The announced length of one byte. -/
theorem lenPrefix_setWidth (u : Byte) : lenPrefix .revB (u.setWidth 16) = [u] :=
  congrArg (fun a => [a]) (by ext i hi; simp [hi, show i < 16 by omega])

theorem announces_setWidth (u : Byte) : announces .revB (u.setWidth 16) := fun _ => by
  rw [BitVec.toNat_setWidth]
  omega

section
variable {led quiet : Prop} {brings : Nat → Byte → Prop} {Q : Wire → Block → Prop} {T : Nat → Wire → Block → Prop}
variable (g : Game .initiator led True quiet brings Q T) {x : Block} {rest : List Line} {s : Prop} {w0 : Wire} {i : Nat}
include g

/-- The length bytes taken. -/
theorem Game.respPrefix {v : Rev} (hquiet : quiet)
    (h : ∀ len lo hi e t u d j, announces v len → (∀ k < (lenPrefix v len).length, brings k ((lenPrefix v len).getD k 0#8)) →
      ((x.announced len lo hi e t u d j).goto rest).Reaches .initiator led True T True (w0 ++ wireBytes false (lenPrefix v len))) :
    (x.goto (respPrefix v ++ rest)).Reaches .initiator led True T s w0 := by
  cases v with
  | revA =>
    rw [Machine.respPrefix, List.append_assoc]
    refine g.receive 0 (fun _ => trivial) (fun _ => .inr hquiet) fun e₀ t₀ lo d₀ j₀ hlo => ?_
    refine g.plain .setLo (fun _ => ⟨nofun, nofun⟩) nofun ?_
    rw [List.append_eq, List.append_assoc]
    refine g.receive 1 (fun _ => trivial) (fun _ => .inr hquiet) fun e t hi d j hhi => ?_
    refine g.plain .setHi (fun _ => ⟨nofun, nofun⟩) nofun <| g.plain .joinLen (fun _ => ⟨nofun, nofun⟩) nofun ?_
    have hnext := h (hi ++ lo) lo hi e t hi d j nofun (by
      rw [lenPrefix_append]
      rintro (_ | _ | k) hk
      · exact hlo
      · exact hhi
      · exact absurd hk (by simp))
    rw [lenPrefix_append, wireBytes_cons, ← List.append_assoc] at hnext
    have hblock : ((((x.cycled .rd e₀ t₀ lo d₀ j₀).did .setLo).cycled .rd e t hi d j).did .setHi).did .joinLen =
        x.announced (hi ++ lo) lo hi e t hi d j := by
      rw [Block.did_setLo, Block.did_setHi, Block.did_joinLen]
      dsimp only [Block.cycled, Block.announced, Block.withLocs]
      rfl
    rw [hblock]
    exact hnext
  | revB =>
    rw [Machine.respPrefix, List.append_assoc]
    refine g.receive 0 (fun _ => trivial) (fun _ => .inr hquiet) fun e t u d j hu => ?_
    refine g.plain .widenLen (fun _ => ⟨nofun, nofun⟩) nofun ?_
    have hnext := h (u.setWidth 16) x.seq.locs.lo x.seq.locs.hi e t u d j (announces_setWidth u) (by
      rw [lenPrefix_setWidth]
      rintro (_ | k) hk
      · exact hu
      · exact absurd hk (by simp))
    rw [lenPrefix_setWidth] at hnext
    have hblock : (x.cycled .rd e t u d j).did .widenLen =
        x.announced (u.setWidth 16) x.seq.locs.lo x.seq.locs.hi e t u d j := by
      rw [Block.did_widenLen]
      dsimp only [Block.cycled, Block.announced, Block.withLocs]
      rfl
    rw [hblock]
    exact hnext

/-- READ_RESP within its cap, past the prefix. -/
theorem Game.readRespTail {b : Block} {len : Half} (hx : b.PrefixRead len x) (h : ∀ vs trail w z, vs.length = len.toNat →
      (∀ k < len.toNat, brings (i + k) (vs.getD k 0#8)) → brings (i + len.toNat) trail →
      b.ReadRespEnd len vs trail w z → Q w z) :
    (x.goto (readRespTail len.toNat)).Reaches .initiator led True T True (wireBytes false (lenPrefix b.cfg.rev len)) := by
  obtain ⟨hop, hres, hcksum, hadv, hlen, hcfg, hbuf, hepoch, -⟩ := hx
  rw [readRespTail_eq]
  refine g.plain (.clearAcc .acc) (fun _ => ⟨nofun, nofun⟩) nofun <|
    g.stores (i := i) (fun _ => trivial) len.toNat (fun _ => .inl trivial) fun vs out t u d j hvs hbrings => ?_
  refine g.receive (i + len.toNat) (fun _ => trivial) (fun _ => .inl (.inl trivial)) fun e t trail d j htrail => ?_
  refine g.endReadResp fun w z hz => h vs trail w z hvs hbrings htrail ?_
  have hsum : 0#8 + cksum vs = cksum vs := BitVec.zero_add _
  have hfinished := hz.finished
  replace hfinished : z.finishedWith ⟨.ok, decide (trail = 0#8 + cksum vs), x.regs.result.isMatchB, x.seq.locs.len⟩
    x.regs.statusOp := hfinished
  have hsums := hz.sums
  replace hsums : z.regs.cksum = { x.regs.cksum with calcA := 0#8 + cksum vs, rxackA := trail } := hsums
  rw [hsum, hres, hlen, hop] at hfinished
  rw [hsum, hcksum] at hsums
  obtain ⟨-, -, -, hadv', hoe, hhs, hsck, hbuf', hepoch', hclean⟩ := hz
  dsimp only [Block.cycled, Block.between, Block.adding, Block.storing, Block.withLocs, Block.did_clearAcc] at hadv' hhs hbuf' hepoch'
  rw [hadv] at hadv'
  rw [hcfg] at hhs
  rw [hbuf] at hbuf'
  exact ⟨hfinished, hsums, hadv', hoe, hhs, hsck, hbuf', hepoch'.trans hepoch, by
    rw [(hclean trivial nofun).1, wireBytes_append, wireBytes_append]⟩

/-- READ_RESP beyond its cap, past the prefix. -/
theorem Game.overrunTail {b : Block} {len : Half} (hx : b.PrefixRead len x) (h : ∀ w z, b.OverrunEnd len w z → Q w z) :
    (x.goto overrunTail).Reaches .initiator led True T True (wireBytes false (lenPrefix b.cfg.rev len)) := by
  obtain ⟨hop, hres, hcksum, hadv, hlen, hcfg, hbuf, hepoch, e, hout⟩ := hx
  refine g.endOverrun fun w z hz => h w z ?_
  obtain ⟨-, hfinished, hsums, hadv', hoe, hhs, hsck, hbuf', hepoch', hclean⟩ := hz
  rw [hres, hop] at hfinished
  exact ⟨hfinished, hsums.trans hcksum, hadv'.trans hadv, hoe.trans (by rw [hout]), hhs.trans (by rw [hout]),
    hsck.trans (by rw [hout]), hbuf'.trans hbuf, hepoch'.trans hepoch, (hclean trivial nofun).1⟩

/-- READ_RESP. -/
theorem Game.readResp (hquiet : quiet) {b : Block} {arg : Half} {lvl : Bool}
    (hover : ∀ len w z, announces b.cfg.rev len → min arg.toNat b.cfg.bufSize.bytes < len.toNat →
      (∀ k < (lenPrefix b.cfg.rev len).length, brings k ((lenPrefix b.cfg.rev len).getD k 0#8)) → b.OverrunEnd len w z → Q w z)
    (h : ∀ len vs trail w z, announces b.cfg.rev len → len.toNat ≤ min arg.toNat b.cfg.bufSize.bytes →
      (∀ k < (lenPrefix b.cfg.rev len).length, brings k ((lenPrefix b.cfg.rev len).getD k 0#8)) → vs.length = len.toNat →
      (∀ k < len.toNat, brings ((lenPrefix b.cfg.rev len).length + k) (vs.getD k 0#8)) →
      brings ((lenPrefix b.cfg.rev len).length + len.toNat) trail → b.ReadRespEnd len vs trail w z → Q w z) :
    (b.accept (.readResp arg lvl) (readRespProg b.cfg.rev)).Reaches .initiator led True T False [] := by
  rw [Block.accept_eq, readRespProg_eq]
  refine g.plain .setCap (fun _ => ⟨nofun, nofun⟩) nofun <| g.respPrefix hquiet fun len lo hi e t u d j hann hbrings =>
    g.plain .setAdvlen (fun _ => ⟨nofun, nofun⟩) nofun <| g.testOverrun ?_
  set x := (((b.latched (.readResp arg lvl)).did .setCap).announced len lo hi e t u d j).did .setAdvlen with hx
  have hread : b.PrefixRead len x := by
    rw [hx, Block.did_setCap, Block.did_setAdvlen]
    dsimp only [Block.announced, Block.latched, Block.withLocs]
    exact ⟨rfl, rfl, rfl, rfl, rfl, rfl, rfl, rfl, e, rfl⟩
  have hcap : x.seq.locs.cap.toNat = min arg.toNat b.cfg.bufSize.bytes := by
    have hofNat : (BitVec.ofNat 16 (min arg.toNat b.cfg.bufSize.bytes)).toNat = min arg.toNat b.cfg.bufSize.bytes := by
      have := arg.isLt
      rw [BitVec.toNat_ofNat]
      omega
    exact hofNat
  split
  next hlt =>
    exact g.overrunTail hread fun w z hz => hover len w z hann (by rw [← hcap]; exact hlt) hbrings hz
  next hle =>
    rw [show x.seq.locs.len = len from hread.len] at hle ⊢
    exact g.readRespTail hread fun vs trail w z hvs hvbrings htrail hz =>
      h len vs trail w z hann (by rw [← hcap]; exact Nat.le_of_not_lt hle) hbrings hvs hvbrings htrail hz

end

end Sys2Proof.Machine
end

section
/-! SUPPORT. READ_RESP over every schedule (O41). -/

namespace Sys2Proof.Machine

/-- The ends of READ_RESP. -/
def Block.ReadRespEnds (b : Block) (cap : Nat) (w : Wire) (z : Block) : Prop :=
  ∃ len, announces b.cfg.rev len ∧ (cap < len.toNat ∧ b.OverrunEnd len w z ∨
    len.toNat ≤ cap ∧ ∃ vs trail, vs.length = len.toNat ∧ b.ReadRespEnd len vs trail w z)

/-- Settles O41: the walk through READ_RESP, of all its runs. -/
theorem readRespResult : Obligations.ReadRespResult := by
  unfold Obligations.ReadRespResult
  intro arg lvl s t b b' h hinv henv hexec hget hdone
  have hrole : b.cfg.role = .initiator := by
    simpa [Instr.wf, Instr.roleOk, Instr.argOk] using ((b.check_ok_iff _).mp h.2).1
  obtain ⟨w, ⟨len, hann, hz⟩, hwire⟩ := exec_ends_initiator h hinv henv hexec hget hdone hrole
    (Block.allEnd_game.readResp (quiet := True) (Q := b.ReadRespEnds (min arg.toNat b.cfg.bufSize.bytes)) trivial
      (fun len w z hann hlt _ hz => ⟨len, hann, .inl ⟨hlt, hz⟩⟩)
      fun len vs trail w z hann hle _ hvs _ _ hz => ⟨len, hann, .inr ⟨hle, vs, trail, hvs, hz⟩⟩)
  obtain ⟨hlt, hz⟩ | ⟨hle, vs, trail, hvs, hz⟩ := hz
  · rw [hz.advlen]
    exact ⟨hz.dataOe, hz.hsO, hz.sckO, hann, .inl ⟨hlt, hz.finished, hz.sums, hz.buf, hz.bufEpoch, fun ps hfar hport hclks =>
      (hwire ps hfar hport hclks).trans hz.wire⟩⟩
  · have htrail : b'.regs.cksum.rxackA = trail := by rw [hz.sums]
    dsimp only
    rw [hz.advlen, htrail, Block.bufBytes_writeRun hz.buf hvs]
    exact ⟨hz.dataOe, hz.hsO, hz.sckO, hann, .inr ⟨hle, hz.finished, hz.sums,
      Block.sameBytesExcept_writeRun hz.buf hz.bufEpoch hvs, fun ps hfar hport hclks =>
      (hwire ps hfar hport hclks).trans hz.wire⟩⟩

end Sys2Proof.Machine
end

section
/-! SUPPORT. A block with one stage in each of its synchronisers: it sees a level in the cycle that brings it, and what it does
with the levels it sees is what the block does that sees them a few cycles later (10_state.md R64). -/

namespace Sys2Proof.Machine

/-- The synchronisers with their last stages alone. -/
def Sync.last (y : Sync) : Sync :=
  { y with
    hs := [lastStage y.hs]
    data := [lastStage y.data]
    sck := [lastStage y.sck] }

/-- The block with one stage in each synchroniser. -/
def Block.oneStage (b : Block) : Block := { b with cfg.syncStages := 1, sync := b.sync.last }

theorem Block.oneStage_goto (b : Block) (rest : List Line) : (b.goto rest).oneStage = b.oneStage.goto rest := by
  have hdrop : b.oneStage.dropZero rest = b.dropZero rest := Block.dropZero_congr (fun d => by cases d <;> rfl) rest
  rw [Block.goto, Block.goto, hdrop]
  rfl

theorem Block.oneStage_finish (b : Block) (c : ResultCode) : (b.finish c).oneStage = b.oneStage.finish c := by
  unfold Block.finish
  cases c.isError <;> rfl

/-- A line does the same. -/
theorem Block.oneStage_runLine (b : Block) (l : Line) (rest : List Line) :
    (b.runLine l rest).oneStage = b.oneStage.runLine l rest := by
  cases l with
  | driveOeFinish | driveHsFinish | finish | finishMatchB | finishMatchData => exact Block.oneStage_finish _ _
  | loadSh v | armSh v => cases v <;> simp only [Block.runLine, Block.oneStage_goto] <;> rfl
  | delay d =>
    have hticks : b.oneStage.ticks d = b.ticks d := by cases d <;> rfl
    rw [Block.runLine, Block.runLine, hticks, Block.delayCycle, apply_ite Block.oneStage, apply_ite Block.oneStage,
      Block.oneStage_goto]
    rfl
  | hold =>
    rw [Block.runLine, Block.holdCycle, apply_ite Block.oneStage, Block.oneStage_goto]
    rfl
  | awaitHs a =>
    rw [Block.runLine, apply_ite Block.oneStage, Block.oneStage_goto]
    rfl
  | waitFinish k =>
    have hmet : b.oneStage.waitMet k = b.waitMet k := by cases k <;> rfl
    rw [Block.runLine, Block.runLine, hmet, apply_ite Block.oneStage, Block.oneStage_finish]
  | awaitByte =>
    rw [Block.runLine, apply_ite Block.oneStage, Block.oneStage_goto]
    rfl
  | testOverrun =>
    rw [Block.runLine, apply_ite Block.oneStage, Block.oneStage_goto, Block.oneStage_goto]
    rfl
  | xportSck =>
    rw [Block.runLine, Block.runLine, Block.oneStage_goto, show b.oneStage.cfg.role = b.cfg.role from rfl]
    cases b.cfg.role <;> rfl
  | takeBit d => cases d <;> exact Block.oneStage_goto _ _
  | _ => exact Block.oneStage_goto _ _

theorem Block.oneStage_seqStep (b : Block) : b.seqStep.oneStage = b.oneStage.seqStep := by
  have hline : b.lineStep.oneStage = b.oneStage.lineStep := by
    unfold Block.lineStep
    rw [show b.oneStage.seq = b.seq from rfl]
    split
    · rfl
    · exact b.oneStage_finish .ok
    · exact b.oneStage_runLine _ _
  have hgoes : b.oneStage.goesOn = b.goesOn := by
    unfold Block.goesOn
    rw [show b.oneStage.seq = b.seq from rfl]
    split
    · rfl
    · rfl
    · next l _ _ => cases l <;> rfl
  rw [Block.seqStep, Block.seqStep, hgoes, ← hline]
  rfl

theorem Block.oneStage_edgeEngine (b : Block) : b.edgeEngine.oneStage = b.oneStage.edgeEngine := by
  have hrise : b.engineRise.oneStage = b.oneStage.engineRise := by rw [Block.engineRise_eq, Block.engineRise_eq]; rfl
  have hfall : b.engineFall.oneStage = b.oneStage.engineFall := apply_ite Block.oneStage _ _ _
  unfold Block.edgeEngine
  rw [show b.oneStage.cfg.role = b.cfg.role from rfl]
  cases b.cfg.role with
  | initiator => rfl
  | responder =>
    have hsample : b.oneStage.sckSample = b.sckSample := rfl
    have hprev : b.oneStage.sync.sckPrev = b.sync.sckPrev := rfl
    simp only [hsample, hprev]
    cases b.sync.sckPrev <;> cases b.sckSample
    · rfl
    · exact congrArg (fun y : Block => { y with sync.sckPrev := true }) hrise
    · exact congrArg (fun y : Block => { y with sync.sckPrev := false }) hfall
    · rfl

/-- The pins `p` are what the last stages show of `b`'s synchronisers once those have shifted in `q`. -/
structure Block.Shows (b : Block) (q p : Pins) : Prop where
  hs : lastStage (shiftChain q.hs b.sync.hs) = p.hs
  data : lastStage (shiftChain q.data b.sync.data) = p.data
  sck : b.cfg.role = .responder → lastStage (shiftChain q.sck b.sync.sck) = p.sck

/-- A step that begins a clk cycle. -/
theorem Block.oneStage_clkStep {b : Block} {q p : Pins} (hr : b.rstN = true) (hm : b.seq.mid = false) (h : b.Shows q p) :
    (b.clkStep q).oneStage = b.oneStage.clkStep p := by
  have hbegun : ((b.syncShift q).edgeEngine).oneStage = (b.oneStage.syncShift p).edgeEngine := by
    obtain ⟨hhs, hdata, hsck⟩ := h
    have hlast : (b.syncShift q).oneStage = b.oneStage.syncShift p := by
      simp only [Block.syncShift, Block.oneStage, Sync.last, hhs, hdata]
      cases hrole : b.cfg.role with
      | initiator => simp [shiftChain, lastStage]
      | responder => simp [shiftChain, lastStage, ← hsck hrole]
    rw [← hlast]
    exact Block.oneStage_edgeEngine _
  rw [Block.clkStep_begins q none hr hm, Block.clkStep_begins (b := b.oneStage) p none hr hm, ← hbegun, ← Block.oneStage_seqStep]
  rfl

/-- What has crossed DATA is the same. -/
theorem Block.oneStage_taken (b b' : Block) : b.oneStage.taken b'.oneStage = b.taken b' := rfl

/-- A further step of a cycle. -/
theorem Block.oneStage_clkStep_mid {b : Block} (p q : Pins) (hr : b.rstN = true) (hm : b.seq.mid = true) :
    (b.clkStep q).oneStage = b.oneStage.clkStep p := by
  rw [Block.clkStep_mid q none hr hm, Block.clkStep_mid (b := b.oneStage) p none hr hm, Block.oneStage_seqStep]
  rfl

/-! ## The levels on their way through the synchronisers -/

/-- The levels `F` are on their way through the synchroniser `chain`, first to last, its last stage aside. -/
def InFlight (chain F : List Level) : Prop := chain ≠ [] ∧ chain.reverse.tail = F

theorem InFlight.shift {chain F : List Level} {f v : Level} {us : List Level} (h : InFlight chain F) (hF : F ++ [v] = f :: us) :
    lastStage (shiftChain v chain) = f ∧ InFlight (shiftChain v chain) us := by
  obtain ⟨hne, rfl⟩ := h
  obtain ⟨hne', hrev, -, hlast⟩ := shiftChain_stream hne v []
  obtain ⟨u, vs, hchain⟩ := List.exists_cons_of_ne_nil (List.reverse_ne_nil_iff.mpr hne)
  rw [hchain, List.tail_cons] at hF
  rw [hchain, List.cons_append, List.tail_cons, List.append_nil, hF] at hrev
  rw [hchain, List.cons_append, hF] at hlast
  exact ⟨hlast, hne', by rw [hrev]; rfl⟩

/-- The pins `F` are on their way through the synchronisers of a block of the role; an initiator has no sck_i. -/
structure Sync.Holds (role : Role) (F : List Pins) (y : Sync) : Prop where
  hs : InFlight y.hs (F.map Pins.hs)
  data : InFlight y.data (F.map Pins.data)
  sck : role = .responder → InFlight y.sck (F.map Pins.sck)

/-- The start of a clk cycle shows the first of the pins on their way and takes in the last. -/
theorem Block.shows_of_holds {b : Block} {F G : List Pins} {q p : Pins} (h : b.sync.Holds b.cfg.role F)
    (hF : F ++ [q] = p :: G) (hm : b.seq.mid = false) (hr : b.rstN = true) :
    b.Shows q p ∧ (b.clkStep q).sync.Holds b.cfg.role G := by
  have hmap {f : Pins → Level} : F.map f ++ [f q] = f p :: G.map f := by
    rw [← List.map_singleton, ← List.map_append, hF, List.map_cons]
  obtain ⟨hhs, hhs'⟩ := h.hs.shift hmap
  obtain ⟨hdata, hdata'⟩ := h.data.shift hmap
  refine ⟨⟨hhs, hdata, fun hrole => ((h.sck hrole).shift hmap).1⟩, ?_⟩
  obtain ⟨hbhs, -⟩ := b.begun_hs q none
  obtain ⟨hbdata, -, hbsck⟩ := b.begun_sync q none
  have hsync : (b.clkStep q).sync = { (b.begun q none).sync with hsPrev := (b.clkStep q).sync.hsPrev } := by
    rw [Block.clkStep_begins q none hr hm, Block.latchPrev_sync, Block.sync_seqStep]
    rfl
  rw [hsync]
  exact ⟨hbhs ▸ hhs', hbdata ▸ hdata', fun hrole => (hbsck hrole).1 ▸ ((h.sck hrole).shift hmap).2⟩

/-! ## Events set before -/

/-- The block with more events set. -/
def Block.flagged (a : Block) (e : BitVec 5) : Block := a.withEvents (a.regs.events ||| e)

theorem Block.flagged_clkStep {a : Block} {e : BitVec 5} (p : Pins) (hr : a.rstN = true) :
    (a.flagged e).clkStep p = (a.clkStep p).flagged e := by
  obtain ⟨m, hm⟩ := Block.onlySets_clkStep p none hr
  have hself : (a.clkStep p).regs.events = a.regs.events ||| m := congrArg (·.regs.events) (hm a.regs.events)
  rw [Block.flagged, Block.flagged, hself]
  exact (hm _).trans (congrArg _ (by rw [BitVec.or_assoc, BitVec.or_assoc, BitVec.or_comm e]))

/-- STRAY_CLK set before does not bear on how an operation ended. -/
theorem Block.finishedWith_flagged {a : Block} {e : BitVec 5} {r : Result} {op : BitVec 5} (h : a.finishedWith r op)
    (he : e &&& ~~~EventBit.strayClk.mask = 0#5) : (a.flagged e).finishedWith r op := by
  obtain ⟨hidle, hres, hdone, herr, hop⟩ := h
  have hevent (v : EventBit) : (a.flagged e).event v = (a.event v || e.getLsbD v.index) := BitVec.getLsbD_or
  refine ⟨hidle, hres, by rw [hevent, hdone]; rfl, ?_, hop⟩
  have hbit := congrArg (·.getLsbD EventBit.err.index) he
  replace hbit : e.getLsbD EventBit.err.index = false := by simpa [EventBit.mask, EventBit.index] using hbit
  rw [hevent, herr, hbit, Bool.or_false]

/-! ## Runs -/

/-- A run of the block with one stage is a run of the block itself, its pins brought in earlier. -/
theorem Block.Plays.lift {a a' : Block} {P : List Pins} {w : Wire} {e : BitVec 5} (h : a.Plays P w a') :
    ∀ {b : Block} {F ps : List Pins}, b.oneStage = a.flagged e → b.rstN = true → b.sync.Holds b.cfg.role F →
      ps.length = P.length → P <+: F ++ ps → ∃ qs, (b.runPins qs).1.oneStage = a'.flagged e ∧ b.wire qs = w := by
  induction h with
  | refl => intro b F ps hab _ _ _ _; exact ⟨[], hab, rfl⟩
  | @cycle a _ _ _ p hbusy hmid _ ih =>
    rintro b F ps hab hr hF hlen ⟨us, hpre⟩
    obtain ⟨q, ps, rfl⟩ := List.exists_cons_of_length_eq_add_one hlen
    obtain ⟨f, G, hG⟩ := List.exists_cons_of_ne_nil (List.append_ne_nil_of_right_ne_nil F (List.cons_ne_nil q []))
    rw [List.append_cons, hG, List.cons_append, List.cons_append, List.cons.injEq] at hpre
    obtain ⟨rfl, hpre⟩ := hpre
    have hseq : b.oneStage.seq = (a.flagged e).seq := congrArg Block.seq hab
    replace hseq : b.seq = a.seq := hseq
    have hra : a.rstN = true := (congrArg Block.rstN hab).symm.trans hr
    have hbusy' : b.busy = true := by rw [Block.busy, hseq]; exact hbusy
    have hmid' : b.seq.mid = false := by rw [hseq, hmid]
    obtain ⟨hshows, hF'⟩ := Block.shows_of_holds hF hG hmid' hr
    have hstep := Block.oneStage_clkStep hr hmid' hshows
    rw [hab, Block.flagged_clkStep p hra] at hstep
    obtain ⟨qs, hend, hwire⟩ := ih hstep (b.rstN_clkStep q none hr) (by rwa [b.cfg_clkStep]) (Nat.succ.inj hlen) ⟨us, hpre⟩
    refine ⟨q :: qs, by rw [Block.runPins_busy q qs hbusy']; exact hend, ?_⟩
    rw [Block.wire_busy q qs hbusy', hwire, ← Block.oneStage_taken, hab, hstep]
    rfl
  | @mid a _ _ _ p hbusy hmid _ ih =>
    rintro b F ps hab hr hF hlen hpre
    have hseq : b.oneStage.seq = (a.flagged e).seq := congrArg Block.seq hab
    replace hseq : b.seq = a.seq := hseq
    have hra : a.rstN = true := (congrArg Block.rstN hab).symm.trans hr
    have hbusy' : b.busy = true := by rw [Block.busy, hseq]; exact hbusy
    have hmid' : b.seq.mid = true := by rw [hseq, hmid]
    have hstep := Block.oneStage_clkStep_mid p p hr hmid'
    rw [hab, Block.flagged_clkStep p hra] at hstep
    have hsync : (b.clkStep p).sync.Holds (b.clkStep p).cfg.role F := by
      rw [b.cfg_clkStep, Block.clkStep_mid p none hr hmid', Block.sync_seqStep]
      exact ⟨hF.hs, hF.data, hF.sck⟩
    obtain ⟨qs, hend, hwire⟩ := ih hstep (b.rstN_clkStep p none hr) hsync hlen hpre
    refine ⟨p :: qs, by rw [Block.runPins_busy p qs hbusy']; exact hend, ?_⟩
    rw [Block.wire_busy p qs hbusy', hwire, ← Block.oneStage_taken, hab, hstep]
    rfl

/-! ## From a run of the block with one stage to an operation -/

/-- The levels on their way through the synchronisers, as pins. -/
def Sync.inFlight (y : Sync) (n : Nat) : List Pins := (List.range n).map fun j =>
  ⟨y.hs.reverse.tail.getD j false, y.data.reverse.tail.getD j false, y.sck.reverse.tail.getD j false⟩

theorem Block.Inv.holds {b : Block} {n : Nat} (h : b.Inv) (hn : b.cfg.syncStages = n + 1) :
    b.sync.Holds b.cfg.role (b.sync.inFlight n) := by
  have hchain {f : Pins → Level} {chain : List Level} (hlen : chain.length = b.cfg.syncStages)
      (hf : ∀ j, f ⟨b.sync.hs.reverse.tail.getD j false, b.sync.data.reverse.tail.getD j false,
        b.sync.sck.reverse.tail.getD j false⟩ = chain.reverse.tail.getD j false) :
      InFlight chain ((b.sync.inFlight n).map f) := by
    refine ⟨List.ne_nil_of_length_pos (by omega), List.ext_getElem (by simp [Sync.inFlight, hlen, hn]) fun j hj hj' => ?_⟩
    simp only [Sync.inFlight, List.getElem_map, List.getElem_range, hf, List.getD_eq_getElem _ _ hj]
  exact ⟨hchain h.hsStages fun _ => rfl, hchain h.dataStages fun _ => rfl, fun _ => hchain h.sckStages fun _ => rfl⟩

/-- The block with one stage in each synchroniser and no stray edge on record. -/
def Block.fresh (b : Block) : Block := b.oneStage.withEvents (b.regs.events &&& ~~~EventBit.strayClk.mask)

theorem programOf_fresh (b : Block) (i : Instr) : programOf b.fresh.cfg i = programOf b.cfg i := by
  cases i <;> rfl

/-- What is taken off the record, the accepting block has on it. -/
theorem Block.oneStage_accept (b : Block) (i : Instr) (prog : List Line) :
    (b.accept i prog).oneStage = (b.fresh.accept i prog).flagged (b.regs.events &&& EventBit.strayClk.mask) := by
  have hevents : b.regs.events &&& ~~~(EventBit.done.mask ||| EventBit.err.mask) =
      b.regs.events &&& ~~~EventBit.strayClk.mask &&& ~~~(EventBit.done.mask ||| EventBit.err.mask) |||
        b.regs.events &&& EventBit.strayClk.mask := by
    generalize b.regs.events = ev
    revert ev
    decide
  rw [Block.accept_eq, Block.accept_eq, Block.oneStage_goto, Block.flagged, ← Block.goto_withEvents]
  refine congrArg (Block.goto · prog) ?_
  exact congrArg (b.latched i).oneStage.withEvents hevents

/-- An operation of a block alone ends as its fresh block with one stage can, once the levels on their way are over. -/
theorem exec_can {s : State} {i : Instr} {b : Block} {n : Nat} {Q : Wire → Block → Prop} (h : s.aloneFor i b) (hinv : b.Inv)
    (hn : b.cfg.syncStages = n + 1) (hcan : (b.fresh.accept i (programOf b.cfg i)).Can Q (b.sync.inFlight n) []) :
    ∃ ps t z, exec i { s with env := clks .near ps } = .next t ∧ Q ((b.submit i (programOf b.cfg i)).wire ps) z ∧
      t.near.oneStage = z.flagged (b.regs.events &&& EventBit.strayClk.mask) := by
  obtain ⟨-, -, ⟨-, hr, hidle⟩, hcheck⟩ := id h
  obtain ⟨P, w, a', ⟨R, hP⟩, hplays, hdone, hQ⟩ := hcan
  have hpre : P <+: b.sync.inFlight n ++ (R ++ List.replicate n ⟨true, true, true⟩) :=
    ⟨List.replicate n ⟨true, true, true⟩, by rw [← hP, List.append_assoc]⟩
  obtain ⟨qs, hend, hwire⟩ := hplays.lift (b.oneStage_accept i _) hr (hinv.holds hn)
    (by simp [← hP, Sync.inFlight, Nat.add_comm]) hpre
  obtain ⟨t, hexec, hnear⟩ := exec_alone (s := { s with env := clks .near qs }) h rfl
  refine ⟨qs, t, a', hexec, ?_, by rw [hnear, hend]⟩
  rw [Block.submit_of_ok _ hidle hcheck, hwire]
  exact hQ

end Sys2Proof.Machine
end

section
/-! SUPPORT. That a block with one stage in its synchronisers can be brought to its end, its pins being of choice after some clk
cycles, is such a claim. -/

namespace Sys2Proof.Machine

/-- `z` has one stage in its synchronisers, and CLK has stood high for it with no stray edge. -/
structure Block.OnCue (z : Block) : Prop where
  inv : z.Inv
  rstN : z.rstN = true
  stages : z.cfg.syncStages = 1
  clock : z.cfg.role = .responder → z.event .strayClk = false ∧ z.sync.sckPrev = true

/-- The pins may be those of a clk cycle that is not of choice. -/
def Block.Still (quiet : Prop) (z : Block) (p : Pins) : Prop :=
  (z.cfg.role = .responder → p.sck = true) ∧ (quiet → p.hs = deasserted z.cfg)

/-- Whatever still pins come first, `n` of them, others after them bring `z` to an end as `Q` says. -/
def Block.CanEnd (quiet : Prop) (Q : Wire → Block → Prop) (n : Nat) (w : Wire) (z : Block) : Prop :=
  z.OnCue → ∀ F : List Pins, F.length = n → (∀ p ∈ F, z.Still quiet p) → z.Can Q F w

theorem lastStage_shiftChain_one {v : Level} {chain : List Level} (h : chain.length = 1) : lastStage (shiftChain v chain) = v := by
  obtain ⟨u, rfl⟩ := List.length_eq_one_iff.mp h
  rfl

theorem Block.strayClk_seqStep (b : Block) : b.seqStep.event .strayClk = b.event .strayClk := by
  have hline : b.lineStep.event .strayClk = b.event .strayClk := by
    unfold Block.lineStep
    split
    · rfl
    · exact b.event_strayClk_finish .ok
    · exact b.strayClk_runLine _ _
  exact hline

section
variable {quiet c : Prop} {Q : Wire → Block → Prop} {role : Role} {n : Nat} {w w0 : Wire} {x z : Block} {rest : List Line}

/-- A responder's edges, as it sees them with one stage. -/
theorem Block.begun_oneStage (hinv : z.Inv) (hone : z.cfg.syncStages = 1) (hrole : z.cfg.role = .responder) (p : Pins) :
    (z.begun p none).sync.sckPrev = p.sck ∧ z.rises p none = (!z.sync.sckPrev && p.sck) ∧
      (z.begun p none).xp.sh = (if z.rises p none then shiftIn p.data z.xp.sh else z.xp.sh) ∧
      (z.xp.armed = true ∨ z.rises p none = false → (z.begun p none).event .strayClk = z.event .strayClk) := by
  have hsck : lastStage (shiftChain p.sck z.sync.sck) = p.sck := lastStage_shiftChain_one (hinv.sckStages.trans hone)
  have hdata : lastStage (shiftChain p.data z.sync.data) = p.data := lastStage_shiftChain_one (hinv.dataStages.trans hone)
  have hprev : (z.begun p none).sync.sckPrev = p.sck := ((z.begun_sync p none).2.2 hrole).2.trans hsck
  have hrises : z.rises p none = (!z.sync.sckPrev && p.sck) := by rw [Block.rises, hprev]
  refine ⟨hprev, hrises, ?_⟩
  rw [hrises]
  cases hwas : z.sync.sckPrev <;> cases hnow : p.sck
  · rw [Block.begun_of_no_edge hrole (by rw [hsck, hwas, hnow])]
    exact ⟨rfl, fun _ => rfl⟩
  · rw [Block.begun_of_rise hrole hwas (by rw [hsck, hnow])]
    refine ⟨?_, fun hor => ?_⟩
    · rw [Block.engineRise_eq]
      exact congrArg (shiftIn · z.xp.sh) hdata
    · rw [Block.event_strayClk_engineRise]
      obtain harmed | hnone := hor
      · rw [show (z.withSync (z.sync.shifted p none)).xp.armed = true from harmed]
        exact Bool.or_false _
      · cases hnone
  · rw [Block.begun_of_fall hrole hwas (by rw [hsck, hnow]), Block.engineFall]
    split <;> exact ⟨rfl, fun _ => rfl⟩
  · rw [Block.begun_of_no_edge hrole (by rw [hsck, hwas, hnow])]
    exact ⟨rfl, fun _ => rfl⟩

/-- A clk cycle in which CLK stands high. -/
theorem Block.OnCue.clkStep (h : z.OnCue) (hm : z.seq.mid = false) {p : Pins} (hp : z.cfg.role = .responder → p.sck = true) :
    (z.clkStep p).OnCue := by
  obtain ⟨hinv, hr, hone, hclock⟩ := h
  refine ⟨hinv.clkStep p none, z.rstN_clkStep p none hr, by rw [z.cfg_clkStep]; exact hone, fun hrole => ?_⟩
  rw [z.cfg_clkStep] at hrole
  obtain ⟨hstray, hwas⟩ := hclock hrole
  obtain ⟨hprev, hrises, -, hkeep⟩ := Block.begun_oneStage hinv hone hrole p
  rw [Block.clkStep_begins p none hr hm, Block.latchPrev_sync, Block.sync_seqStep]
  refine ⟨?_, hprev.trans (hp hrole)⟩
  exact (Block.strayClk_seqStep _).trans ((hkeep (.inr (by rw [hrises, hwas]; rfl))).trans hstray)

/-- CLK cannot rise next. -/
theorem Block.OnCue.no_rise (h : z.OnCue) (p : Pins) : z.rises p none = false := by
  cases hrole : z.cfg.role with
  | initiator =>
    rw [Block.rises, Block.begun_of_initiator hrole]
    exact Bool.not_and_self _
  | responder =>
    obtain ⟨-, hrises, -⟩ := Block.begun_oneStage h.inv h.stages hrole p
    rw [hrises, (h.clock hrole).2]
    rfl

/-- A clk cycle in which CLK stands high, with `v` on the handshake line if that is of choice. -/
theorem Block.CanEnd.cycle (hbusy : z.busy = true) (hm : z.seq.mid = false) (v : Level)
    (h : ∀ p, z.rises p none = false → (n = 0 → p.hs = v) → (0 < n → z.Still quiet p) →
      (z.clkStep p).CanEnd quiet Q (n - 1) (w ++ z.taken (z.clkStep p))) : z.CanEnd quiet Q n w := by
  rintro hcue F rfl hF
  cases F with
  | nil =>
    exact .choose ⟨v, true, true⟩ hbusy (h _ (hcue.no_rise _) (fun _ => rfl) nofun (hcue.clkStep hm fun _ => rfl) [] rfl nofun)
  | cons p F =>
    have hp := hF p (.head _)
    refine .forced hbusy hm (h p (hcue.no_rise p) nofun (fun _ => hp) (hcue.clkStep hm hp.1) F rfl fun q hq => ?_)
    have hq' := hF q (.tail _ hq)
    rwa [Block.Still, z.cfg_clkStep]

/-- An initiator along pins of choice. -/
theorem Block.CanEnd.along {k : Nat} : ∀ {ps : List Pins} {w : Wire} {z : Block}, z.cfg.role = .initiator →
    z.Along True (fun _ w' z' => z'.CanEnd quiet Q 0 w') k ps w → k ≤ ps.length → z.CanEnd quiet Q 0 w := by
  induction k with
  | zero => exact fun _ h _ => h
  | succ k ih =>
    intro ps w z hrole h hlen hcue F hF _
    obtain rfl := List.eq_nil_of_length_eq_zero hF
    cases ps with
    | nil => cases hlen
    | cons p ps =>
      obtain ⟨hbusy, hnext⟩ := h
      refine .choose p hbusy (ih ((congrArg Config.role (z.cfg_clkStep p none)).trans hrole) (hnext p none fun _ => ⟨rfl, rfl⟩)
        (Nat.le_of_succ_le_succ hlen) (hcue.clkStep (hcue.inv.oneStep hrole) fun hrsp => ?_) [] rfl nofun)
      cases hrole.symm.trans hrsp

/-- An await of the handshake line: the peer shows what is awaited once the pins are of choice. -/
theorem Block.CanEnd.await {a : Bool} (hx : x.Ready role True) : ∀ {n : Nat} {w : Wire} {z : Block},
    z.Follows c w0 w (x.goto (.awaitHs a :: rest)) →
    (∀ m w' (z' : Block), m ≤ n → (quiet → a = true → m = 0) → z'.Follows c w0 w' (x.goto rest) → z'.CanEnd quiet Q m w') →
    z.CanEnd quiet Q n w := by
  intro n
  induction n with
  | zero =>
    intro w z hz h hcue
    have hseq : z.seq = (x.goto (.awaitHs a :: rest)).seq := Block.seq_of_core hz.core
    refine CanEnd.cycle (n := 0) (by simp [Block.busy, hseq]) (by rw [hseq]; exact hx.mid) (hsLevel x.cfg a) (fun p hrise hv _ => ?_) hcue
    have hnext := hz.awaitHs hx p none fun _ => hrise
    rw [lastStage_shiftChain_one (hcue.inv.hsStages.trans hcue.stages), hv rfl, if_pos rfl] at hnext
    exact h 0 _ _ (by omega) (fun _ _ => rfl) hnext
  | succ n ih =>
    intro w z hz h hcue
    have hseq : z.seq = (x.goto (.awaitHs a :: rest)).seq := Block.seq_of_core hz.core
    refine CanEnd.cycle (n := n + 1) (by simp [Block.busy, hseq]) (by rw [hseq]; exact hx.mid) true (fun p hrise _ hstill => ?_) hcue
    have hnext := hz.awaitHs hx p none fun _ => hrise
    rw [lastStage_shiftChain_one (hcue.inv.hsStages.trans hcue.stages)] at hnext
    split at hnext
    · next hlevel =>
      refine h n _ _ (by omega) (fun hq ha => ?_) hnext
      have hoff := (hstill (by omega)).2 hq
      rw [hlevel, ha, show z.cfg = x.cfg from Block.cfg_of_core (y := x.goto _) hz.core, hsLevel, if_pos rfl, deasserted] at hoff
      simp at hoff
    · exact ih hnext fun m w' z' hm => h m w' z' (by omega)

/-- A byte that an initiator reads: `v`, if the pins of choice bring it. -/
theorem Block.CanEnd.read (v : Byte) (hrole : role = .initiator) (hx : x.Ready role True) (hoe : x.out.dataOe = false)
    (hz : z.Follows c w0 w (x.goto (transferLines .rd rest)))
    (h : ∀ (m : Moving) (w' : Wire) (z' : Block), m.sh = v → m.sck = true →
      z'.Follows c (w0 ++ wireBytes false [m.sh]) w' ((x.moving m []).goto rest) → z'.CanEnd quiet Q 0 w') :
    z.CanEnd quiet Q 0 w := by
  intro hcue
  have hini : z.cfg.role = .initiator := by
    rw [Block.cfg_of_core hz.core]
    exact hx.isRole.trans hrole
  have hoe' : z.out.dataOe = false := (Block.dataOe_of_core hz.core).trans hoe
  obtain ⟨u, hu⟩ := List.length_eq_one_iff.mp (hcue.inv.dataStages.trans hcue.stages)
  set k := 0 + z.delayCycles z.regs.byteSettle + 8 * z.bitCycles .rd with hk
  set ps := (List.range k).map fun j => (⟨true, v.getLsbD ((j - z.lowHalf .rd - 1) / z.bitCycles .rd), true⟩ : Pins)
  have hbits : z.lowHalf .rd + 2 ≤ z.bitCycles .rd := by
    rw [Block.bitCycles, Block.highHalf]
    omega
  refine CanEnd.along (k := k) (ps := ps) hini (hz.transferAlong (alone := True) (D := u :: ps.map Pins.data) hcue.inv hcue.rstN hini
    ⟨fun _ => ⟨by simp [hu], by simp [hu]⟩, by nofun⟩ fun us y ps' hlen hus => ?_) (by simp [ps]) hcue
  rw [hoe', Moving.wire_rd z.move hlen]
  obtain ⟨hsh, -⟩ := Moving.bits_rd (m := z.move) (k := 0) (f := v.getLsbD) us (.zero _ _) (by omega) fun j hj => by
    rw [hus trivial j (by omega), Nat.zero_add]
    have hperiod : (j + 1) * z.bitCycles .rd ≤ 8 * z.bitCycles .rd := Nat.mul_le_mul_right _ (by omega)
    have hidx : j * z.bitCycles .rd + z.lowHalf .rd + 1 < k := by
      rw [Nat.succ_mul] at hperiod
      omega
    have hdiv : (j * z.bitCycles .rd + z.lowHalf .rd + 1 - z.lowHalf .rd - 1) / z.bitCycles .rd = j := by
      rw [show j * z.bitCycles .rd + z.lowHalf .rd + 1 - z.lowHalf .rd - 1 = j * z.bitCycles .rd by omega]
      exact Nat.mul_div_cancel _ (by omega)
    rw [List.getD_cons_succ, List.getD_eq_getElem _ _ (by simpa [ps] using hidx)]
    simp [ps, hdiv]
  rw [Nat.zero_add, hlen] at hsh
  exact h _ _ _ hsh.eq_of_eight (Moving.bits_eight z.move hlen).1 (hz.moved _ y _)

end

end Sys2Proof.Machine
end

section
/-! SUPPORT. A responder's byte by pins of choice (40_transport.md R174 to R176), and the claim that an operation can be brought to
its end. -/

namespace Sys2Proof.Machine

section
variable {quiet c : Prop} {Q : Wire → Block → Prop} {role : Role} {n k : Nat} {w w0 : Wire} {x z : Block} {rest : List Line}
variable {dir : Dir} {v u : Byte}

/-- The bits that have come to a reading block are the first of `u`. -/
def Block.Brought (dir : Dir) (u : Byte) (k : Nat) (z : Block) : Prop :=
  dir = .rd → ∀ j < k, z.xp.sh.getLsbD (8 - k + j) = u.getLsbD j

/-- A clk cycle of a wait for a byte in which no byte comes. -/
theorem Block.Receives.waits (hz : z.Receives c dir v k w0 w (x.goto (awaitByteLines ++ rest))) (hk : k < 8)
    (hx : x.rstN = true ∧ x.seq.mid = false ∧ x.cfg.role = .responder) (hoe : x.out.dataOe = dir.drives) (hc : c) {p : Pins}
    (hcount : z.rises p none = true → k < 7) (hstray : (z.begun p none).event .strayClk = false) :
    z.clkStep p = (z.begun p none).latchPrev ∧
      (z.clkStep p).Receives c dir v (if z.rises p none then k + 1 else k) w0 (w ++ z.taken (z.clkStep p))
        (x.goto (awaitByteLines ++ rest)) := by
  obtain ⟨hbegun, hstep⟩ := hz.awaitByte hk hx hoe rfl p none
  obtain ⟨-, hxp, -⟩ := hbegun.clean hc hstray
  have hdone : (z.begun p none).xp.byteDone = false := by
    rw [hxp]
    refine decide_eq_false ?_
    split
    · next hrise => have := hcount hrise; omega
    · omega
  rw [hdone, if_neg Bool.false_ne_true] at hstep
  refine ⟨hstep, ?_⟩
  rw [hstep] at hbegun ⊢
  exact hbegun.latchPrev

/-- CLK falls for a waiting responder. -/
theorem Block.Receives.falls (hz : z.Receives c dir v k w0 w (x.goto (awaitByteLines ++ rest))) (hk : k < 8)
    (hx : x.rstN = true ∧ x.seq.mid = false ∧ x.cfg.role = .responder) (hoe : x.out.dataOe = dir.drives) (hc : c)
    (hu : z.Brought dir u k) (hcue : z.OnCue) {z1 : Block} (hz1 : z1 = z.clkStep ⟨true, true, false⟩) :
    z1.Inv ∧ z1.rstN = true ∧ z1.cfg = z.cfg ∧ z1.event .strayClk = false ∧ z1.sync.sckPrev = false ∧ z1.Brought dir u k ∧
      z1.Receives c dir v k w0 (w ++ z.taken z1) (x.goto (awaitByteLines ++ rest)) := by
  have hrole : z.cfg.role = .responder := (congrArg Config.role (Block.cfg_of_core hz.core)).trans hx.2.2
  obtain ⟨hprev, hrises, hsh, hkeep⟩ := Block.begun_oneStage hcue.inv hcue.stages hrole ⟨true, true, false⟩
  rw [Bool.and_false] at hrises
  rw [hrises, if_neg Bool.false_ne_true] at hsh
  have hstray := (hkeep (.inr hrises)).trans (hcue.clock hrole).1
  obtain ⟨hstep, hnext⟩ := hz.waits hk hx hoe hc (fun h => by cases hrises.symm.trans h) hstray
  rw [hrises, if_neg Bool.false_ne_true, ← hz1] at hnext
  refine ⟨hz1 ▸ hcue.inv.clkStep _ _, hz1 ▸ z.rstN_clkStep _ _ hcue.rstN, hz1 ▸ z.cfg_clkStep _ _, ?_, ?_, ?_, hnext⟩
  · rw [hz1, hstep]; exact hstray
  · rw [hz1, hstep]; exact hprev
  · intro hdir j hj
    rw [hz1, hstep]
    exact (congrArg (·.getLsbD (8 - k + j)) hsh).trans (hu hdir j hj)

/-- CLK rises for a waiting responder, with bit `k` of `u` on DATA. -/
theorem Block.Receives.rose (hz : z.Receives c dir v k w0 w (x.goto (awaitByteLines ++ rest))) (hk : k < 8)
    (hx : x.rstN = true ∧ x.seq.mid = false ∧ x.cfg.role = .responder) (hc : c) (hu : z.Brought dir u k) (hinv : z.Inv)
    (hone : z.cfg.syncStages = 1) (hstray : z.event .strayClk = false) (hlow : z.sync.sckPrev = false) {p : Pins}
    (hp : p = ⟨true, u.getLsbD k, true⟩) :
    z.rises p none = true ∧ (z.begun p none).event .strayClk = false ∧ (z.begun p none).sync.sckPrev = true ∧
      (z.begun p none).Brought dir u (k + 1) := by
  have hrole : z.cfg.role = .responder := (congrArg Config.role (Block.cfg_of_core hz.core)).trans hx.2.2
  obtain ⟨hprev, hrises, hsh, hkeep⟩ := Block.begun_oneStage hinv hone hrole p
  obtain ⟨-, hxp, -⟩ := hz.clean hc hstray
  have harmed : z.xp.armed = true := by
    rw [hxp]
    exact decide_eq_true (by omega)
  rw [hlow, hp] at hrises
  replace hrises : z.rises p none = true := hp ▸ hrises
  rw [hrises, if_pos rfl] at hsh
  refine ⟨hrises, (hkeep (.inl harmed)).trans hstray, hprev.trans (hp ▸ rfl), fun hdir j hj => ?_⟩
  rw [hsh, getLsbD_shiftIn _ _ (by omega), hp]
  split
  · next h7 => rw [show j = k by omega]
  · next h7 =>
    rw [show 8 - (k + 1) + j + 1 = 8 - k + j by omega]
    exact hu hdir j (by omega)

/-- From bit `k` on, the pins of choice bring the byte `u`. -/
theorem Block.CanEnd.bits (hx : x.rstN = true ∧ x.seq.mid = false ∧ x.cfg.role = .responder)
    (hoe : x.out.dataOe = dir.drives) (hc : c) (h : ∀ sh e w' (z' : Block), (dir = .rd → sh = u) → (dir = .wr → e = v.getLsbD 7) →
      z'.Follows c (w0 ++ wireBytes dir.drives [dir.crossing v sh]) w' ((x.tookByte sh e).goto rest) → z'.CanEnd quiet Q 0 w')
    (m : Nat) : ∀ {k : Nat} {w : Wire} {z : Block}, k + m = 7 →
      z.Receives c dir v k w0 w (x.goto (awaitByteLines ++ rest)) → z.Brought dir u k → z.OnCue → z.Can Q [] w := by
  induction m with
  | zero =>
    rintro k w z (rfl : k = 7) hz hu hcue
    refine .choose ⟨true, true, false⟩ (by simp [Block.busy, Block.seq_of_core hz.core]) ?_
    obtain ⟨hinv1, hr1, hcfg1, hstray1, hprev1, hu1, hz1⟩ := hz.falls (by decide) hx hoe hc hu hcue rfl
    generalize z.clkStep ⟨true, true, false⟩ = z1 at *
    generalize w ++ z.taken z1 = w1 at *
    set p : Pins := ⟨true, u.getLsbD 7, true⟩ with hp
    obtain ⟨hrises, hstray, hprev, hu2⟩ := hz1.rose (by decide) hx hc hu1 hinv1 (hcfg1 ▸ hcue.stages) hstray1 hprev1 hp
    obtain ⟨hbegun, -⟩ := hz1.awaitByte (by decide) hx hoe rfl p none
    have hdone : (z1.begun p none).xp.byteDone = true := by
      obtain ⟨-, hxp, -⟩ := hbegun.clean hc hstray
      rw [hxp, hrises]
      rfl
    set z2 := z1.clkStep p with hz2
    set z3 := z2.clkStep p with hz3
    set z4 := z3.clkStep p with hz4
    obtain ⟨hbusy2, hbusy3, ⟨y, hgot, hy⟩, hz'⟩ := hz1.byteTaken (by decide) hx hoe hdone hz2 hz3 hz4
    refine .choose p (by simp [Block.busy, Block.seq_of_core hz1.core]) <| .choose p hbusy2 <| .choose p hbusy3 ?_
    refine h _ _ _ _ (fun hdir => ?_) (fun hdir => by rw [hdir]; rfl) hz' ?_ [] rfl nofun
    · exact BitVec.eq_of_getLsbD_eq fun j hj => by simpa using hu2 hdir j hj
    · refine ⟨((hinv1.clkStep p none).clkStep p none).clkStep p none, ?_, ?_, fun _ => ⟨?_, ?_⟩⟩
      · exact Block.rstN_clkStep _ _ _ (Block.rstN_clkStep _ _ _ (Block.rstN_clkStep _ _ _ hr1))
      · rw [hz4, z3.cfg_clkStep, hz3, z2.cfg_clkStep, hz2, z1.cfg_clkStep, hcfg1]; exact hcue.stages
      · rw [hgot]; exact hstray
      · rw [hgot]; exact hy.trans hprev
  | succ m ih =>
    intro k w z hk hz hu hcue
    refine .choose ⟨true, true, false⟩ (by simp [Block.busy, Block.seq_of_core hz.core]) ?_
    obtain ⟨hinv1, hr1, hcfg1, hstray1, hprev1, hu1, hz1⟩ := hz.falls (by omega) hx hoe hc hu hcue rfl
    generalize z.clkStep ⟨true, true, false⟩ = z1 at *
    generalize w ++ z.taken z1 = w1 at *
    set p : Pins := ⟨true, u.getLsbD k, true⟩ with hp
    obtain ⟨hrises, hstray, hprev, hu2⟩ := hz1.rose (by omega) hx hc hu1 hinv1 (hcfg1 ▸ hcue.stages) hstray1 hprev1 hp
    obtain ⟨hstep, hnext⟩ := hz1.waits (by omega) hx hoe hc (fun _ => by omega) hstray
    rw [hrises, if_pos rfl] at hnext
    refine .choose p (by simp [Block.busy, Block.seq_of_core hz1.core]) (ih (by omega) hnext ?_ ?_)
    · rw [hstep]; exact hu2
    · refine ⟨hinv1.clkStep p none, z1.rstN_clkStep p none hr1, ?_, fun _ => ⟨?_, ?_⟩⟩
      · rw [z1.cfg_clkStep, hcfg1]; exact hcue.stages
      · rw [hstep]; exact hstray
      · rw [hstep]; exact hprev

/-- A wait for a byte, some clk cycles before the pins are of choice. -/
theorem Block.CanEnd.awaitByte (hx : x.rstN = true ∧ x.seq.mid = false ∧ x.cfg.role = .responder)
    (hoe : x.out.dataOe = dir.drives) (hc : c) (h : ∀ sh e w' (z' : Block), (dir = .rd → sh = u) → (dir = .wr → e = v.getLsbD 7) →
      z'.Follows c (w0 ++ wireBytes dir.drives [dir.crossing v sh]) w' ((x.tookByte sh e).goto rest) → z'.CanEnd quiet Q 0 w') :
    ∀ {n : Nat} {w : Wire} {z : Block}, z.Receives c dir v 0 w0 w (x.goto (awaitByteLines ++ rest)) → z.CanEnd quiet Q n w := by
  intro n
  induction n with
  | zero =>
    intro w z hz hcue F hF _
    obtain rfl := List.eq_nil_of_length_eq_zero hF
    exact CanEnd.bits (u := u) hx hoe hc h 7 rfl hz (fun _ j hj => absurd hj (Nat.not_lt_zero j)) hcue
  | succ n ih =>
    intro w z hz hcue
    have hrole : z.cfg.role = .responder := (congrArg Config.role (Block.cfg_of_core hz.core)).trans hx.2.2
    refine CanEnd.cycle (n := n + 1) (by simp [Block.busy, Block.seq_of_core hz.core])
      ((congrArg Seq.mid (Block.seq_of_core hz.core)).trans hx.2.1) true (fun p hrises _ _ => ih ?_) hcue
    obtain ⟨-, -, -, hkeep⟩ := Block.begun_oneStage hcue.inv hcue.stages hrole p
    obtain ⟨-, hnext⟩ := hz.waits (by decide) hx hoe hc (fun h => by cases hrises.symm.trans h)
      ((hkeep (.inr hrises)).trans (hcue.clock hrole).1)
    rwa [hrises, if_neg Bool.false_ne_true] at hnext

/-- A byte that a responder is armed for: `u`, if it reads. -/
theorem Block.CanEnd.byte (hx : x.rstN = true ∧ x.seq.mid = false ∧ x.cfg.role = .responder) (harmed : x.Armed dir v) (hc : c)
    (hz : z.Follows c w0 w (x.goto (.driveHs true :: (awaitByteLines ++ rest))))
    (h : ∀ sh e w' (z' : Block), (dir = .rd → sh = u) → (dir = .wr → e = v.getLsbD 7) →
      z'.Follows c (w0 ++ wireBytes dir.drives [dir.crossing v sh]) w'
        (((x.driveHs (hsLevel x.cfg true)).tookByte sh e).goto rest) → z'.CanEnd quiet Q 0 w') : z.CanEnd quiet Q n w := by
  intro hcue
  have hrec := hz.receives (x := x.goto _) ⟨harmed.armed, harmed.bitcnt, harmed.byteDone, harmed.dataOe, harmed.sends⟩
  refine CanEnd.cycle (by simp [Block.busy, Block.seq_of_core hz.core])
    ((congrArg Seq.mid (Block.seq_of_core (y := x.goto _) hz.core)).trans hx.2.1) true (fun p hrises _ _ => ?_) hcue
  have hwait := hrec.driveHs (by decide) hx harmed.dataOe rfl p none
  rw [hrises, if_neg Bool.false_ne_true] at hwait
  exact .awaitByte (x := x.driveHs (hsLevel x.cfg true)) (u := u) hx harmed.dataOe hc h hwait

end

/-- That an operation can be brought to its end, with the bytes `f` for those it takes. -/
theorem Block.canEnd_game {role : Role} {c quiet : Prop} {Q : Wire → Block → Prop} (f : Nat → Byte) (hc : role = .responder → c) :
    Game role True c quiet (fun i u => u = f i)
      (fun w z => (z.cfg.role = .responder → z.event .strayClk = false ∧ z.sync.sckPrev = true) → Q w z)
      (Block.CanEnd quiet Q) where
  given h hcue := h hcue.inv hcue.rstN hcue
  step hbusy hm h := .cycle hbusy hm true fun p hrises _ _ => h p none fun _ => hrises
  done hidle hQ hcue F hF _ := by
    obtain rfl := List.eq_nil_of_length_eq_zero hF
    exact .done hidle (hQ hcue.clock)
  await hx hz h := .await hx hz h
  read {i _ _ _ _ _} hrole hx hoe hz h := .read (f i) hrole hx hoe hz h
  byte {_ i _ _ _ _ _ _ _} hrole hr hm hrole' harmed hz h :=
    .byte (u := f i) ⟨hr, hm, hrole'.trans hrole⟩ harmed (hc hrole) hz h

end Sys2Proof.Machine
end

section
/-! SUPPORT. SEND_CMD, READ_RESP and EXT_PACKET completed by a schedule (O45, O46, O47). -/

namespace Sys2Proof.Machine

theorem Block.fresh_strayClk (b : Block) : b.fresh.event .strayClk = false := by
  have hbit (ev : BitVec 5) : (ev &&& ~~~EventBit.strayClk.mask).getLsbD EventBit.strayClk.index = false := by
    revert ev
    decide
  exact hbit b.regs.events

theorem Block.Inv.fresh {b : Block} (h : b.Inv) (hidle : b.busy = false) : b.fresh.Inv where
  cfgWf := rfl
  bufWf := h.bufWf
  bufWithin := h.bufWithin
  hsStages := rfl
  dataStages := rfl
  sckStages := rfl
  hsPrevTracks := h.hsPrevTracks
  sckPrevTracks := h.sckPrevTracks
  running hbusy := by cases hidle.symm.trans hbusy
  initiator hrole := by
    obtain ⟨harmed, hdone, -⟩ := h.initiator hrole
    exact ⟨harmed, hdone, b.fresh_strayClk⟩
  responder := h.responder
  legal l hl := by
    have hlegal := h.legal l hl
    cases l <;> exact hlegal
  capBound := h.capBound
  timersRest := h.timersRest
  holdRest := h.holdRest
  halves := h.halves
  midRuns := h.midRuns
  oneStep := h.oneStep

section
variable {s : State} {i : Instr} {b x : Block} {role : Role} {c quiet : Prop} {Q : Wire → Block → Prop}

/-- The pins on their way to a block that has seen its lines at rest. -/
theorem Block.still_inFlight {n : Nat} (hinv : b.Inv) (hn : b.cfg.syncStages = n + 1)
    (hclock : b.cfg.role = .responder → b.clockQuiet) (hquiet : quiet → b.hsQuiet) :
    ∀ p ∈ b.sync.inFlight n, b.Still quiet p := by
  have hmem {chain : List Level} (hlen : chain.length = b.cfg.syncStages) {j : Nat} (hj : j < n) :
      chain.reverse.tail.getD j false ∈ chain := by
    rw [List.getD_eq_getElem _ _ (by simp [hlen, hn, hj])]
    exact List.mem_reverse.mp (List.mem_of_mem_tail (List.getElem_mem _))
  intro p hp
  obtain ⟨j, hj, rfl⟩ := List.mem_map.mp hp
  have hj := List.mem_range.mp hj
  exact ⟨fun hrole => (hclock hrole).2 _ (hmem hinv.sckStages hj), fun hq => hquiet hq _ (hmem hinv.hsStages hj)⟩

/-- What can be reached, a schedule reaches. -/
theorem exec_completes (h : s.aloneFor i b) (hinv : b.Inv) (hx : x.Ready role True)
    (hfollows : (b.fresh.accept i (programOf b.cfg i)).Follows c [] [] x) (hclock : b.cfg.role = .responder → b.clockQuiet)
    (hquiet : quiet → b.hsQuiet) (hall : x.Reaches role True c (Block.CanEnd quiet Q) False []) :
    ∃ ps t z, exec i { s with env := clks .near ps } = .next t ∧ Q ((b.submit i (programOf b.cfg i)).wire ps) z ∧
      t.near.oneStage = z.flagged (b.regs.events &&& EventBit.strayClk.mask) := by
  obtain ⟨-, -, ⟨-, hr, hidle⟩, hcheck⟩ := id h
  obtain ⟨n, hn⟩ := hinv.syncStages_eq_add_one
  have hle : n ≤ 14 := by
    have hwf := hinv.cfgWf
    simp only [Config.wf, Bool.and_eq_true, decide_eq_true_eq] at hwf
    omega
  have hwf : i.wf b.fresh.cfg = true := by
    rw [← ((b.check_ok_iff i).mp hcheck).1]
    cases i <;> rfl
  have hcue : (b.fresh.accept i (programOf b.cfg i)).OnCue := by
    refine ⟨(hinv.fresh hidle).accept hidle ?_, hr, rfl, fun hrole =>
      ⟨(Block.event_accept _ _ _).2.trans b.fresh_strayClk, (hclock hrole).1⟩⟩
    rw [← programOf_fresh]
    exact programOf_runnable hwf
  exact exec_can h hinv hn (hall hx n [] _ hle False.elim hfollows hcue _ (by simp [Sync.inFlight])
    (Block.still_inFlight hinv hn hclock hquiet))

end

/-- The same for an initiator: the walk starts at the accepting block. -/
theorem exec_completes_initiator {s : State} {i : Instr} {b : Block} {quiet : Prop} {Q : Wire → Block → Prop}
    (h : s.aloneFor i b) (hinv : b.Inv) (hrole : b.cfg.role = .initiator) (hquiet : quiet → b.hsQuiet)
    (hall : (b.fresh.accept i (programOf b.cfg i)).Reaches .initiator True True (Block.CanEnd quiet Q) False []) :
    ∃ ps t z, exec i { s with env := clks .near ps } = .next t ∧ Q ((b.submit i (programOf b.cfg i)).wire ps) z ∧
      t.near.oneStage = z.flagged (b.regs.events &&& EventBit.strayClk.mask) := by
  obtain ⟨-, -, ⟨-, hr, hidle⟩, -⟩ := id h
  exact exec_completes h hinv (.accept (hinv.fresh hidle) hr hidle hrole _ _) (.refl [] _)
    (fun hrsp => by cases hrole.symm.trans hrsp) hquiet hall

/-- What the end of an operation has of the end that was reached. -/
theorem endsAs_of_oneStage {t z : Block} {ev : BitVec 5} (h : t.oneStage = z.flagged (ev &&& EventBit.strayClk.mask)) :
    (∀ {r op}, z.finishedWith r op → t.finishedWith r op) ∧ t.regs.cksum = z.regs.cksum ∧ t.regs.advlen = z.regs.advlen ∧
      t.buf = z.buf ∧ t.bufEpoch = z.bufEpoch ∧ t.out = z.out := by
  refine ⟨fun {r op} hz => ?_, congrArg (·.regs.cksum) h, congrArg (·.regs.advlen) h, congrArg (·.buf) h,
    congrArg (·.bufEpoch) h, congrArg (·.out) h⟩
  have hmask : ev &&& EventBit.strayClk.mask &&& ~~~EventBit.strayClk.mask = 0#5 := by
    clear h
    revert ev
    decide
  have hend := Block.finishedWith_flagged hz hmask
  rw [← h] at hend
  exact hend

/-- Settles O45: the walk through SEND_CMD with the pins that bring `ack`. -/
theorem sendCmdCompletes : Obligations.SendCmdCompletes := by
  unfold Obligations.SendCmdCompletes
  intro arg lvl s b ack h hinv
  have hrole : b.cfg.role = .initiator := by
    simpa [Instr.wf, Instr.roleOk, Instr.argOk] using ((b.check_ok_iff _).mp h.2.2.2).1
  obtain ⟨ps, t, z, hexec, hz, heq⟩ := exec_completes_initiator (quiet := False) h hinv hrole False.elim
    ((Block.canEnd_game (role := .initiator) (quiet := False) (c := True) (Q := fun w z => b.fresh.SendCmdEnd ack w z) (fun _ => ack) fun _ => trivial).sendCmd
      fun _ w z hack hz _ => hack ▸ hz)
  obtain ⟨hfinished, hcksum, -, hbuf, -, -⟩ := endsAs_of_oneStage heq
  exact ⟨ps, t, hexec, hfinished hz.finished, hcksum.trans hz.sums, hbuf.trans hz.buf⟩

/-- Settles O47: the walk through EXT_PACKET with the pins that bring the two acks. -/
theorem extPacketCompletes : Obligations.ExtPacketCompletes := by
  unfold Obligations.ExtPacketCompletes
  intro arg lvl s b ackA ackB h hinv
  have hrole : b.cfg.role = .initiator := by
    simpa [Instr.wf, Instr.roleOk, Instr.argOk] using ((b.check_ok_iff _).mp h.2.2.2).1
  obtain ⟨ps, t, z, hexec, hz, heq⟩ := exec_completes_initiator (quiet := False) h hinv hrole False.elim
    ((Block.canEnd_game (role := .initiator) (quiet := False) (c := True) (Q := fun w z => b.fresh.ExtPacketEnd ackA ackB w z)
      (fun i => if i = 0 then ackA else ackB) fun _ => trivial).extPacket fun _ _ w z hA hB hz _ => by
        subst hA hB
        exact hz)
  obtain ⟨hfinished, hcksum, -, hbuf, hepoch, -⟩ := endsAs_of_oneStage heq
  obtain ⟨hA, hB⟩ := hz.acks
  refine ⟨ps, t, hexec, hfinished hz.finished, ?_, ?_, hcksum.trans hz.sums⟩
  · rw [Block.readBuf, hbuf, hepoch]; exact hA
  · rw [Block.readBuf, hbuf, hepoch]; exact hB

/-- The bytes on the wire of a READ_RESP determine the length they announce. -/
theorem lenPrefix_injective {v : Rev} {len len' : Half} (h : announces v len) (h' : announces v len')
    (heq : lenPrefix v len = lenPrefix v len') : len = len' := by
  have hbyte (k : Nat) (n : Half) : (n.extractLsb' k 8).toNat = n.toNat >>> k % 256 := by simp
  refine BitVec.eq_of_toNat_eq ?_
  cases v with
  | revA =>
    obtain ⟨hlo, hhi⟩ : len.extractLsb' 0 8 = len'.extractLsb' 0 8 ∧ len.extractLsb' 8 8 = len'.extractLsb' 8 8 := by
      simpa [lenPrefix] using heq
    have hlo := congrArg BitVec.toNat hlo
    have hhi := congrArg BitVec.toNat hhi
    rw [hbyte, hbyte, Nat.shiftRight_zero, Nat.shiftRight_zero] at hlo
    rw [hbyte, hbyte, Nat.shiftRight_eq_div_pow, Nat.shiftRight_eq_div_pow] at hhi
    omega
  | revB =>
    have hlo : len.extractLsb' 0 8 = len'.extractLsb' 0 8 := by simpa [lenPrefix] using heq
    have hlo := congrArg BitVec.toNat hlo
    rw [hbyte, hbyte, Nat.shiftRight_zero, Nat.shiftRight_zero, Nat.mod_eq_of_lt (h rfl), Nat.mod_eq_of_lt (h' rfl)] at hlo
    exact hlo

/-- Two lists of one length with the same entries. -/
theorem eq_of_getD_eq {vs us : List Byte} (hlen : vs.length = us.length) (h : ∀ k < vs.length, vs.getD k 0#8 = us.getD k 0#8) :
    vs = us :=
  List.ext_getElem hlen fun k hk hk' => by
    have hget := h k hk
    rwa [List.getD_eq_getElem _ _ hk, List.getD_eq_getElem _ _ hk'] at hget

/-- The announced length is the one whose bytes the pins bring. -/
theorem announced_eq {v : Rev} {len len' : Half} {us : List Byte} (h : announces v len) (h' : announces v len')
    (hbrought : ∀ k < (lenPrefix v len').length, (lenPrefix v len').getD k 0#8 = (lenPrefix v len ++ us).getD k 0#8) : len' = len := by
  have hlen : (lenPrefix v len').length = (lenPrefix v len).length := by cases v <;> rfl
  refine lenPrefix_injective h' h (eq_of_getD_eq hlen fun k hk => (hbrought k hk).trans ?_)
  exact List.getD_append _ _ _ _ (hlen ▸ hk)

/-- Settles O46: the walk through READ_RESP with the pins that bring the length, the payload and the trailing byte, or the
length alone. -/
theorem readRespCompletes : Obligations.ReadRespCompletes := by
  unfold Obligations.ReadRespCompletes
  intro arg lvl s b h hinv hquiet
  have hrole : b.cfg.role = .initiator := by
    simpa [Instr.wf, Instr.roleOk, Instr.argOk] using ((b.check_ok_iff _).mp h.2.2.2).1
  refine ⟨fun payload trail hcap hrev => ?_, fun len hcap hrev => ?_⟩
  · have hlen : (BitVec.ofNat 16 payload.length).toNat = payload.length := by
      have := arg.isLt
      rw [BitVec.toNat_ofNat]
      omega
    generalize hlen' : BitVec.ofNat 16 payload.length = len at *
    have hann : announces b.cfg.rev len := fun hB => hlen ▸ hrev hB
    have g := Block.canEnd_game (role := .initiator) (quiet := True) (c := True)
      (Q := fun w z => b.fresh.ReadRespEnd len payload trail w z)
      (fun i => (lenPrefix b.cfg.rev len ++ (payload ++ [trail])).getD i 0#8) fun _ => trivial
    obtain ⟨ps, t, z, hexec, hz, heq⟩ := exec_completes_initiator h hinv hrole (fun _ => hquiet) <|
      g.readResp (b := b.fresh) trivial (fun len' w z hann' hlt hbrings _ _ => by
        rw [announced_eq hann hann' hbrings, hlen] at hlt
        exact absurd hcap (Nat.not_le_of_lt hlt)) fun len' vs trail' w z hann' hle hbrings hvs hvbrings htrail hz _ => by
        obtain rfl := announced_eq hann hann' hbrings
        have hafter (k : Nat) : (lenPrefix b.cfg.rev len' ++ (payload ++ [trail])).getD ((lenPrefix b.cfg.rev len').length + k) 0#8 =
            (payload ++ [trail]).getD k 0#8 := by
          rw [List.getD_append_right _ _ _ _ (Nat.le_add_right _ _), Nat.add_sub_cancel_left]
        obtain rfl : vs = payload := eq_of_getD_eq (hvs.trans hlen) fun k hk => by
          rw [hvbrings k (hvs ▸ hk)]
          exact (hafter k).trans (List.getD_append _ _ _ _ (by omega))
        obtain rfl : trail' = trail := by
          refine htrail.trans ((hafter _).trans ?_)
          rw [hlen, List.getD_append_right _ _ _ _ le_rfl, Nat.sub_self]
          rfl
        exact hz
    obtain ⟨hfinished, hcksum, hadv, hbuf, hepoch, -⟩ := endsAs_of_oneStage heq
    exact ⟨ps, t, hexec, hfinished hz.finished, hadv.trans hz.advlen, Block.bufBytes_writeRun (hbuf.trans hz.buf) rfl,
      hcksum.trans hz.sums, hz.wire⟩
  · have g := Block.canEnd_game (role := .initiator) (quiet := True) (c := True) (Q := fun w z => b.fresh.OverrunEnd len w z)
      (fun i => (lenPrefix b.cfg.rev len ++ []).getD i 0#8) fun _ => trivial
    obtain ⟨ps, t, z, hexec, hz, heq⟩ := exec_completes_initiator h hinv hrole (fun _ => hquiet) <|
      g.readResp (b := b.fresh) trivial (fun len' w z hann' _ hbrings hz _ => announced_eq hrev hann' hbrings ▸ hz)
        fun len' vs trail' w z hann' hle hbrings _ _ _ _ _ => by
          rw [announced_eq hrev hann' hbrings] at hle
          exact absurd hle (Nat.not_le_of_lt hcap)
    obtain ⟨hfinished, -, hadv, hbuf, -, -⟩ := endsAs_of_oneStage heq
    exact ⟨ps, t, hexec, hfinished hz.finished, hadv.trans hz.advlen, hbuf.trans hz.buf, hz.wire⟩

end Sys2Proof.Machine
end

section
/-! SUPPORT. RSP_READ_CKSUM and RSP_WRITE_CKSUM completed by a schedule (O48, O49). -/

namespace Sys2Proof.Machine

/-- `exec_completes` for a responder's operation: the walk starts at the accepting block. -/
theorem exec_completes_responder {s : State} {i : Instr} {b : Block} {Q : Wire → Block → Prop}
    (h : s.aloneFor i b) (hinv : b.Inv) (hrole : b.cfg.role = .responder) (hclock : b.clockQuiet) (hcnt : b.xp.bitcnt = 0#3)
    (hall : (b.fresh.accept i (programOf b.cfg i)).Reaches .responder True True (Block.CanEnd False Q) False []) :
    ∃ ps t z, exec i { s with env := clks .near ps } = .next t ∧ Q ((b.submit i (programOf b.cfg i)).wire ps) z ∧
      t.near.oneStage = z.flagged (b.regs.events &&& EventBit.strayClk.mask) := by
  obtain ⟨-, -, ⟨-, hr, hidle⟩, -⟩ := id h
  refine exec_completes h hinv ?_ (.refl [] _) (fun _ => hclock) False.elim hall
  exact ⟨hr, rfl, hrole, hinv.tmr_of_idle hidle, fun _ => trivial, fun _ => hcnt⟩

/-- Settles O48: the walk through RSP_READ_CKSUM with the pins that bring the payload. -/
theorem rspReadCksumCompletes : Obligations.RspReadCksumCompletes := by
  unfold Obligations.RspReadCksumCompletes
  intro arg lvl s b payload h hinv hclock hcnt hlen
  have hrole : b.cfg.role = .responder := by
    have hwf := ((b.check_ok_iff _).mp h.2.2.2).1
    simp_all [Instr.wf, Instr.roleOk]
  obtain ⟨ps, t, z, hexec, ⟨w, hz, hdata⟩, heq⟩ := exec_completes_responder h hinv hrole hclock hcnt <|
    (Block.canEnd_game (role := .responder) (quiet := False) (c := True) (Q := fun _ z =>
      ∃ w, b.fresh.RspEnd True 0x18#5 arg (b.buf.writeRun 0 payload) (cksum payload)
        (wireBytes false payload ++ wireBytes true [cksum payload]) w z ∧ z.out.dataO = (cksum payload).getLsbD 7)
      (payload.getD · 0#8) fun _ => trivial).rspReadCksum (b := b.fresh) (t := b.xp) (lvl := lvl) fun vs w z hvs hbrings hz hclean => by
        obtain rfl : vs = payload := eq_of_getD_eq (hvs.trans hlen.symm) fun k hk => hbrings k (hvs ▸ hk)
        obtain ⟨hstray, hprev⟩ := hclean hz.isRole
        exact ⟨w, hz, (hz.clean trivial hstray).2 hprev⟩
  obtain ⟨hfinished, hcksum, -, hbuf, -, hout⟩ := endsAs_of_oneStage heq
  refine ⟨ps, t, hexec, hfinished hz.finished, Block.bufBytes_writeRun (hbuf.trans hz.buf) hlen, ?_, ?_, ?_⟩
  · rw [hcksum, hz.sums]
  · rw [hout]; exact hz.dataOe
  · rw [hout]; exact hdata

/-- Settles O49: the walk through RSP_WRITE_CKSUM with the pins that clock its bytes out. -/
theorem rspWriteCksumCompletes : Obligations.RspWriteCksumCompletes := by
  unfold Obligations.RspWriteCksumCompletes
  intro arg lvl s b h hinv hclock hcnt
  have hrole : b.cfg.role = .responder := by
    have hwf := ((b.check_ok_iff _).mp h.2.2.2).1
    simp_all [Instr.wf, Instr.roleOk]
  set sum := cksum (b.bufBytes 0 arg.toNat)
  obtain ⟨ps, t, z, hexec, ⟨hz, hwire, hdata⟩, heq⟩ := exec_completes_responder h hinv hrole hclock hcnt <|
    (Block.canEnd_game (role := .responder) (quiet := False) (c := True) (Q := fun w z =>
      b.fresh.RspEnd True 0x19#5 arg b.buf sum (wireBytes true (lenPrefix b.cfg.rev arg ++ b.bufBytes 0 arg.toNat ++ [sum])) w z ∧
        w = wireBytes true (lenPrefix b.cfg.rev arg ++ b.bufBytes 0 arg.toNat ++ [sum]) ∧ z.out.dataO = sum.getLsbD 7)
      (fun _ => 0#8) fun _ => trivial).rspWriteCksum (b := b.fresh) (t := b.xp) (lvl := lvl) fun w z hz hclean => by
        obtain ⟨hstray, hprev⟩ := hclean hz.isRole
        obtain ⟨hw, hd⟩ := hz.clean trivial hstray
        exact ⟨hz, hw, hd hprev⟩
  obtain ⟨hfinished, hcksum, -, -, -, hout⟩ := endsAs_of_oneStage heq
  refine ⟨ps, t, hexec, hfinished hz.finished, ?_, ?_, ?_, hwire⟩
  · rw [hcksum, hz.sums]
  · rw [hout]; exact hz.dataOe
  · rw [hout]; exact hdata

end Sys2Proof.Machine
end

section
/-! SUPPORT. Two blocks whose clocks step in turn: their run as a chain of stretches, each from a state with the
initiator's operation under way to the next, and what such a chain makes of a run over a lockstep schedule. -/

namespace Sys2Proof.Machine

/-- The event of a clock in a lockstep schedule. -/
def tick (float : Level) (side : Side) : Event := .clk side ⟨true, float, true⟩

theorem lockstep_succ (float : Level) (n : Nat) :
    lockstep float (n + 1) = tick float .near :: tick float .far :: lockstep float n := rfl

/-- n steps of each clock in turn, if the initiator runs its operation all the way and the responder is there. -/
def State.pairs (float : Level) : Nat → State → Option State
  | 0, s => some s
  | n + 1, s =>
    let s1 := s.apply (tick float .near)
    if s.running .near && s1.running .near && s1.present (tick float .far) then (s1.apply (tick float .far)).pairs float n
    else none

/-- The initiator's step that ends its operation. -/
def State.lastStep (float : Level) (s : State) : Option State :=
  let s1 := s.apply (tick float .near)
  if s.running .near && !s1.running .near then some s1 else none

theorem State.pairs_succ {float : Level} {n : Nat} {s t : State} (h : s.pairs float (n + 1) = some t) :
    s.running .near = true ∧ (s.apply (tick float .near)).running .near = true ∧
      (s.apply (tick float .near)).present (tick float .far) = true ∧
      ((s.apply (tick float .near)).apply (tick float .far)).pairs float n = some t := by
  obtain ⟨hcond, hrest⟩ := Option.ite_none_right_eq_some.mp h
  simp only [Bool.and_eq_true] at hcond
  obtain ⟨⟨hrun, hrun1⟩, hthere⟩ := hcond
  exact ⟨hrun, hrun1, hthere, hrest⟩

theorem State.pairs_add {float : Level} {m : Nat} {t u : State} (h2 : t.pairs float m = some u) :
    ∀ {n : Nat} {s : State}, s.pairs float n = some t → s.pairs float (n + m) = some u
  | 0, _, h => by cases h; rwa [Nat.zero_add]
  | n + 1, s, h => by
    obtain ⟨hrun, hrun1, hthere, hrest⟩ := State.pairs_succ h
    rw [Nat.add_right_comm, State.pairs, hrun, hrun1, hthere]
    exact State.pairs_add h2 hrest

/-- A run in step is a run over the lockstep schedule. -/
theorem State.runWhile_lockstep {float : Level} (m : Nat) : ∀ {n : Nat} {s t : State}, s.pairs float n = some t →
    State.runWhile .near (lockstep float (n + m)) s = State.runWhile .near (lockstep float m) t
  | 0, _, _, h => by cases h; rw [Nat.zero_add]
  | n + 1, s, t, h => by
    obtain ⟨hrun, hrun1, hthere, hrest⟩ := State.pairs_succ h
    rw [Nat.add_right_comm, lockstep_succ, State.runWhile_cons _ hrun rfl, State.runWhile_cons _ hrun1 hthere]
    exact State.runWhile_lockstep m hrest

/-- The step that ends the operation leaves the rest of the schedule. -/
theorem State.runWhile_lastStep {float : Level} (m : Nat) {s t : State} (h : s.lastStep float = some t) :
    State.runWhile .near (lockstep float (m + 1)) s = { t with env := tick float .far :: lockstep float m } := by
  obtain ⟨hcond, hsome⟩ := Option.ite_none_right_eq_some.mp h
  cases hsome
  simp only [Bool.and_eq_true, Bool.not_eq_true'] at hcond
  obtain ⟨hrun, hstopped⟩ := hcond
  rw [lockstep_succ, State.runWhile_cons _ hrun rfl]
  exact State.runWhile_stop _ hstopped

end Sys2Proof.Machine
end

section
/-! SUPPORT. The bus of 42_framer.md R295's first pair, stepped symbolically. At the border of two bits or two bytes its
state is known but for the bytes on their way, what the blocks have stored and the lines to come; from one border to the
next it is evaluated (`cbv`) with all of these left open, since no line of a transfer asks for a byte's value. -/

namespace Sys2Proof.Machine

/-! ## The bus at a border -/

/-- What varies of the two blocks of R295's pair from byte to byte: their buffers and locals, and data_o of the block
that does not drive DATA (`still`). -/
structure Duet where
  iniBuf : Memory
  iniLocs : Locals
  rspBuf : Memory
  rspLocs : Locals
  still : Level
  env : List Event

/-- The initiator while it runs SEND_CMD. -/
def Duet.ini (c : Duet) (ls : List Line) (x : Xport) (o : Outputs) (y : Sync) : Block :=
  { Block.reset (.default .initiator) true ⟨.near, 0⟩ with
    regs := { Regs.reset (.default .initiator) with
      statusOp := 0x10#5, prepoll := 0#16, byteSettle := 0#16, clkdiv := 6#16 }
    buf := c.iniBuf, seq := ⟨.run ls, 0x10#5, false, 0#16, c.iniLocs, false⟩, xp := x, out := o, sync := y }

/-- The responder while it runs RSP_READ_CKSUM 4. -/
def Duet.rsp (c : Duet) (ls : List Line) (x : Xport) (o : Outputs) (y : Sync) : Block :=
  { Block.reset (.default .responder) true ⟨.far, 0⟩ with
    regs := { Regs.reset (.default .responder) with statusOp := 0x18#5, prepoll := 0#16 }
    buf := c.rspBuf, seq := ⟨.run ls, 0x18#5, false, 4#16, c.rspLocs, false⟩, xp := x, out := o, sync := y }

/-- Synchronisers that have stood, the handshake line at h and CLK high; DATA is at v and was at u before. -/
def Sync.stood (h v u : Level) : Sync := ⟨[h, h], [v, u], [true, true], h, true, u⟩

/-- The bus with CLK high and the handshake lines asserted, while the initiator (.wr) or the responder (.rd) drives
DATA at v, which the last stage of the initiator's synchroniser has at u; SH of the two are x and r, `ls` and `rs` the
lines to come. -/
def Duet.held (c : Duet) (d : Dir) (k : BitVec 3) (armed : Bool) (iCycles : Nat) (v u : Level) (x r : Byte)
    (ls rs : List Line) : State :=
  ⟨c.ini ls ⟨x, k, false, false, 0#16⟩ ⟨true, if d = .wr then v else c.still, d = .wr, false⟩
      (.stood false v u),
    some (c.rsp rs ⟨r, k, false, armed, 0#16⟩ ⟨true, if d = .wr then c.still else v, d = .rd, false⟩
      (.stood false v v)),
    false, ⟨4, iCycles, false, false⟩, if d = .wr then 19 else 30, c.env, .near, []⟩

/-- The bus before bit k of a byte, the responder armed and waiting for it. -/
def Duet.atBit (c : Duet) (d : Dir) (k : BitVec 3) (v u : Level) (x r : Byte) (ls rs : List Line) : State :=
  c.held d k true 3 v u x r ls (.awaitByte :: rs)

/-- The bus after the byte w has crossed it. -/
def Duet.afterByte (c : Duet) (d : Dir) (v : Level) (w : Byte) (ls rs : List Line) : State :=
  c.held d 0#3 false 1 v v w w (.takeSh :: ls) (.awaitHs false :: rs)

/-- SH of the block that drives DATA. -/
def Dir.source (d : Dir) (x r : Byte) : Byte := if d = .wr then x else r

/-- The bit that it puts on the line next. -/
def Dir.nextBit (d : Dir) (x r : Byte) : Level := (d.source x r).getLsbD 0

/-- The bus as the initiator accepts SEND_CMD. -/
def Duet.start (c : Duet) (ls rs : List Line) : State :=
  ⟨c.ini ls .reset (.reset (.default .initiator)) (.reset (.default .initiator)),
    some (c.rsp rs .reset (.reset (.default .responder)) (.reset (.default .responder))),
    false, .rest, 0, c.env, .near, []⟩

/-! ## From one border to the next -/

/-- From the acceptance of SEND_CMD to its first byte. DATA floats until the initiator drives it. -/
theorem Duet.opens (c : Duet) (float : Level) (ls rs : List Line) :
    (c.start
      (.clearAcc .acc :: .driveHs true :: (pollHs true ++ .driveOe true :: .loadSh (.buf 0) :: .sckLow :: ls))
      (.setN :: .clearAcc .acc :: (pollHs true ++ .driveOe false :: (armLines .rd .locB ++
        .driveHs true :: .awaitByte :: rs)))).pairs float 11 =
      some ({ c with
        iniLocs := { c.iniLocs with acc := 0#8, j := 0#16 }
        rspLocs := { c.rspLocs with acc := 0#8, n := 4#16 }
        still := true }.atBit .wr 0#3 true float (c.iniBuf.readByte ⟨.near, 0⟩ (bufOffset 0)) 0#8
          (.sckLow :: ls) rs) := by
  cbv

/-- A bit but the last: both blocks shift in the lowest bit of the source. -/
theorem Duet.bit (c : Duet) (float v u : Level) (d : Dir) {k : BitVec 3} (hk : k ≠ 7#3) (x r : Byte)
    (ls rs : List Line) :
    (c.atBit d k v u x r (bitPeriod d ++ .sckLow :: ls) rs).pairs float 14 =
      some ({ c with iniLocs.d := d.nextBit x r }.atBit d (k + 1#3) (d.nextBit x r) (d.nextBit x r)
        (shiftIn (d.nextBit x r) x) (shiftIn (d.nextBit x r) r) (.sckLow :: ls) rs) := by
  have hlist : k = 0#3 ∨ k = 1#3 ∨ k = 2#3 ∨ k = 3#3 ∨ k = 4#3 ∨ k = 5#3 ∨ k = 6#3 := by
    revert k; decide
  cases d
  · rcases hlist with rfl | rfl | rfl | rfl | rfl | rfl | rfl <;> cbv
  · rcases hlist with rfl | rfl | rfl | rfl | rfl | rfl | rfl <;> cbv

/-- The last bit of a byte: the responder, woken by it, has the byte in b when the initiator's last half-period
ends. -/
theorem Duet.lastBit (c : Duet) (float v u : Level) (d : Dir) (x r : Byte) (ls rs : List Line) :
    (c.atBit d 7#3 v u x r (bitPeriod d ++ .delay .byteSettle :: .takeSh :: ls)
      (.takeDone true :: .takeSh :: (pollHs false ++ rs))).pairs float 14 =
      some ({ c with
        iniLocs.d := d.nextBit x r
        rspLocs.b := shiftIn (d.nextBit x r) r }.held d 0#3 false 1 (d.nextBit x r) (d.nextBit x r)
        (shiftIn (d.nextBit x r) x) (shiftIn (d.nextBit x r) r)
        (.takeSh :: ls) (.awaitHs false :: rs)) := by
  cases d <;> cbv

/-- From byte j to byte j + 1 of the frame (41_handshake.md R221, R222): both sides add byte j up and
the responder stores it. -/
theorem Duet.nextByte (c : Duet) (float v : Level) (j : Nat) (w : Byte) (ls rs : List Line) :
    (c.afterByte .wr v w
      (.driveHs false :: (pollHs false ++ .addBuf .acc j :: .driveHs true :: (pollHs true ++
        .driveOe true :: .loadSh (.buf (j + 1)) :: .sckLow :: ls)))
      (.driveHs false :: .storeB j :: .addB :: (pollHs true ++ .driveOe false :: (armLines .rd .locB ++
        .driveHs true :: .awaitByte :: rs)))).pairs float 17 =
      some ({ c with
        iniLocs := { c.iniLocs with
          b := w, acc := c.iniLocs.acc + c.iniBuf.readByte ⟨.near, 0⟩ (bufOffset j), j := BitVec.ofNat 16 (j + 1) }
        rspLocs := { c.rspLocs with j := BitVec.ofNat 16 j, acc := c.rspLocs.acc + c.rspLocs.b }
        rspBuf := c.rspBuf.writeByte (bufOffset j) c.rspLocs.b }.atBit .wr 0#3 v v
          (c.iniBuf.readByte ⟨.near, 0⟩ (bufOffset (j + 1))) w (.sckLow :: ls) rs) := by
  cbv

/-- From the last byte of the frame to the ack: the initiator releases DATA and the responder, its sum in SH,
drives it. -/
theorem Duet.turnsAround (c : Duet) (float v : Level) (j : Nat) (w : Byte) (ls rs : List Line) :
    (c.afterByte .wr v w
      (.driveHs false :: (pollHs false ++ .addBuf .acc j :: .driveOe false :: .driveHs true ::
        (pollHs true ++ .sckLow :: ls)))
      (.driveHs false :: .storeB j :: .addB :: (pollHs true ++ (armLines .wr .acc ++
        .driveHs true :: .awaitByte :: rs)))).pairs float 18 =
      some ({ c with
        still := v
        iniLocs := { c.iniLocs with
          b := w, acc := c.iniLocs.acc + c.iniBuf.readByte ⟨.near, 0⟩ (bufOffset j), j := BitVec.ofNat 16 j }
        rspLocs := { c.rspLocs with j := BitVec.ofNat 16 j, acc := c.rspLocs.acc + c.rspLocs.b }
        rspBuf := c.rspBuf.writeByte (bufOffset j) c.rspLocs.b }.atBit .rd 0#3
          ((c.rspLocs.acc + c.rspLocs.b).getLsbD 0) ((c.rspLocs.acc + c.rspLocs.b).getLsbD 0)
          w (c.rspLocs.acc + c.rspLocs.b) (.sckLow :: ls) rs) := by
  cbv

/-- From the ack to the end of both operations. -/
theorem Duet.ends (c : Duet) (float v : Level) (w : Byte) (h : c.iniLocs.acc = w) :
    ((c.afterByte .rd v w
      (.driveHs false :: (pollHs false ++ [.setCalc, .setRxack, .matchB, .count 4, .finishMatchB]))
      [.driveHs false, .setCalc, .countN, .finish .ok]).pairs float 10).bind (State.lastStep float) =
      some ⟨{ c.ini [] ⟨w, 0#3, false, false, 0#16⟩ ⟨true, c.still, false, true⟩ (.stood true v v) with
          regs := { Regs.reset (.default .initiator) with
            statusOp := 0x10#5, prepoll := 0#16, byteSettle := 0#16, clkdiv := 6#16, events := 1#5
            result := ⟨.ok, true, false, 4#16⟩, cksum := ⟨w, w, 0#8, 0#8⟩ }
          seq := ⟨.idle, 0x10#5, false, 0#16, { c.iniLocs with b := w, acc := w }, false⟩ },
        some { c.rsp [] ⟨w, 0#3, false, false, 0#16⟩ ⟨true, v, true, true⟩ (.stood true v v) with
          regs := { Regs.reset (.default .responder) with
            statusOp := 0x18#5, prepoll := 0#16, events := 1#5
            result := ⟨.ok, false, false, c.rspLocs.n⟩, cksum := ⟨c.rspLocs.acc, 0#8, 0#8, 0#8⟩ }
          seq := ⟨.idle, 0x18#5, false, 4#16, c.rspLocs, false⟩ },
        false, ⟨4, 3, false, false⟩, 30, c.env, .near, []⟩ := by
  subst h
  cbv

end Sys2Proof.Machine
end

section
/-! SUPPORT. A byte that crosses the bus of R295's pair, from the eight bits of it. -/

namespace Sys2Proof.Machine

/-- The byte w crosses the bus and k of its bits have: the driving block's SH holds the others, both hold those k. -/
def Crossing (w : Byte) (d : Dir) (k : Nat) (x r : Byte) : Prop :=
  HoldsFrom w (d.source x r) k ∧ ShiftedIn w.getLsbD k x ∧ ShiftedIn w.getLsbD k r

theorem Crossing.start (d : Dir) (x r : Byte) : Crossing (d.source x r) d 0 x r :=
  ⟨fun j _ => by rw [Nat.zero_add], .zero _ _, .zero _ _⟩

theorem Crossing.bit {w x r : Byte} {d : Dir} {k : Nat} (h : Crossing w d k x r) (hk : k < 8) :
    d.nextBit x r = w.getLsbD k := h.1.bit hk

theorem Crossing.shiftIn {w x r : Byte} {d : Dir} {k : Nat} (h : Crossing w d k x r) (hk : k < 8) :
    Crossing w d (k + 1) (shiftIn (w.getLsbD k) x) (shiftIn (w.getLsbD k) r) := by
  obtain ⟨hsource, hx, hr⟩ := h
  refine ⟨?_, hx.shiftIn hk, hr.shiftIn hk⟩
  cases d <;> exact hsource.shiftIn _

/-- n bit periods, and then `ls`. -/
def bitLines (d : Dir) : Nat → List Line → List Line
  | 0, ls => ls
  | n + 1, ls => bitPeriod d ++ bitLines d n ls

theorem bitLines_succ (d : Dir) (n : Nat) (ls : List Line) :
    bitLines d (n + 1) ls = .sckLow :: ((bitPeriod d).tail ++ bitLines d n ls) := by cases d <;> rfl

/-- Up to the last bit of a byte. -/
theorem Duet.bits (float : Level) {w : Byte} {d : Dir} (ls rs : List Line) : ∀ (n : Nat) {k : Nat} (c : Duet)
    (v u : Level) {x r : Byte}, k + n = 7 → Crossing w d k x r → ∃ e v' u' x' r',
      (c.atBit d (BitVec.ofNat 3 k) v u x r (bitLines d (n + 1) ls) rs).pairs float (14 * n) =
        some ({ c with iniLocs.d := e }.atBit d 7#3 v' u' x' r' (bitPeriod d ++ ls) rs) ∧ Crossing w d 7 x' r'
  | 0, k, c, v, u, x, r, hk, h => by
    cases (show k = 7 from hk)
    exact ⟨c.iniLocs.d, v, u, x, r, rfl, h⟩
  | n + 1, k, c, v, u, x, r, hk, h => by
    have hne : BitVec.ofNat 3 k ≠ 7#3 := by
      intro heq
      have := congrArg BitVec.toNat heq
      simp only [BitVec.toNat_ofNat] at this
      omega
    have hbit := c.bit float v u d hne x r ((bitPeriod d).tail ++ bitLines d n ls) rs
    rw [h.bit (by omega), ← BitVec.ofNat_add, ← bitLines_succ] at hbit
    obtain ⟨e, v', u', x', r', hrest, hlast⟩ := Duet.bits float ls rs n { c with iniLocs.d := w.getLsbD k }
      (w.getLsbD k) (w.getLsbD k) (show k + 1 + n = 7 by omega) (h.shiftIn (by omega))
    exact ⟨e, v', u', x', r', by rw [Nat.mul_succ, Nat.add_comm]; exact State.pairs_add hrest hbit, hlast⟩

/-- A byte crosses the bus. -/
theorem Duet.byte (c : Duet) (float v u : Level) (d : Dir) (x r : Byte) (ls rs : List Line) :
    (c.atBit d 0#3 v u x r (bitLines d 8 (.delay .byteSettle :: .takeSh :: ls))
      (.takeDone true :: .takeSh :: (pollHs false ++ rs))).pairs float 112 =
      some ({ c with iniLocs.d := (d.source x r).getLsbD 7, rspLocs.b := d.source x r }.afterByte d
        ((d.source x r).getLsbD 7) (d.source x r) ls rs) := by
  obtain ⟨e, v', u', x', r', hbits, hlast⟩ := Duet.bits float (.delay .byteSettle :: .takeSh :: ls)
    (.takeDone true :: .takeSh :: (pollHs false ++ rs)) 7 c v u rfl (.start d x r)
  have hend := { c with iniLocs.d := e : Duet }.lastBit float v' u' d x' r' ls rs
  obtain ⟨-, hx, hr⟩ := hlast.shiftIn (by decide)
  rw [hlast.bit (by decide), hx.eq_of_eight, hr.eq_of_eight] at hend
  exact State.pairs_add hend hbits

end Sys2Proof.Machine
end

section
/-! SUPPORT. SEND_CMD against RSP_READ_CKSUM 4 on one bus, from acceptance to both endings (42_framer.md R295). -/

namespace Sys2Proof.Machine

/-! ## The two operations' lines, byte by byte -/

/-- SEND_CMD's lines up to the first bit of byte j. -/
def iniOpens (j : Nat) (ls : List Line) : List Line :=
  .driveHs true :: (pollHs true ++ .driveOe true :: .loadSh (.buf j) :: ls)

/-- SEND_CMD's lines from the first bit of byte j to the sum. -/
def iniSends (j : Nat) (ls : List Line) : List Line :=
  bitLines .wr 8 (.delay .byteSettle :: .takeSh :: .driveHs false :: (pollHs false ++ .addBuf .acc j :: ls))

/-- SEND_CMD's lines from the release of DATA on. -/
def iniTakesAck : List Line :=
  .driveOe false :: .driveHs true :: (pollHs true ++ bitLines .rd 8 (.delay .byteSettle :: .takeSh :: .driveHs false ::
    (pollHs false ++ [.setCalc, .setRxack, .matchB, .count 4, .finishMatchB])))

theorem sendByteI_append (j : Nat) (ls : List Line) : sendByteI .acc j ++ ls = iniOpens j (iniSends j ls) := rfl

theorem sendCmdProg_eq_sends : sendCmdProg = .clearAcc .acc :: iniOpens 0 (iniSends 0 (iniOpens 1 (iniSends 1
    (iniOpens 2 (iniSends 2 (iniOpens 3 (iniSends 3 iniTakesAck))))))) := by
  have hack : cycleI .rd .locB ++ [.setCalc, .setRxack, .matchB, .count 4, .finishMatchB] = iniTakesAck := rfl
  simp only [← sendByteI_append, ← hack]
  simp only [sendCmdProg, List.range, List.range.loop, List.flatMap_cons, List.flatMap_nil, List.append_assoc,
    List.nil_append, List.cons_append]

/-- RSP_READ_CKSUM's lines for byte j. -/
def rspTakes (j : Nat) (rs : List Line) : List Line :=
  pollHs true ++ .driveOe false :: (armLines .rd .locB ++ .driveHs true :: .awaitByte :: .takeDone true :: .takeSh ::
    (pollHs false ++ .driveHs false :: .storeB j :: .addB :: rs))

/-- RSP_READ_CKSUM's lines from the ack on. -/
def rspSendsAck : List Line :=
  pollHs true ++ (armLines .wr .acc ++ .driveHs true :: .awaitByte :: .takeDone true :: .takeSh ::
    (pollHs false ++ [.driveHs false, .setCalc, .countN, .finish .ok]))

theorem rspReadCksumProg_four : rspReadCksumProg 4 =
    .setN :: .clearAcc .acc :: rspTakes 0 (rspTakes 1 (rspTakes 2 (rspTakes 3 rspSendsAck))) := by
  cbv

/-! ## The run -/

/-- The buffer of the initiator in R295's pair. -/
def frame (c0 c1 c2 c3 : Byte) : Memory := [(0x400, c0), (0x401, c1), (0x402, c2), (0x403, c3)]

/-- The two blocks as they start. -/
def Duet.opening (m : Memory) (env : List Event) : Duet := ⟨m, .zero, [], .zero, true, env⟩

/-- The frame crosses, is stored and summed, and the sum crosses back. -/
theorem Duet.frame_crosses (float : Level) (c0 c1 c2 c3 : Byte) (env : List Event) : ∃ (c : Duet) (v : Level),
    ((Duet.opening (frame c0 c1 c2 c3) env).start sendCmdProg (rspReadCksumProg 4)).pairs float 640 =
      some (c.afterByte .rd v (0#8 + c0 + c1 + c2 + c3)
        (.driveHs false :: (pollHs false ++ [.setCalc, .setRxack, .matchB, .count 4, .finishMatchB]))
        [.driveHs false, .setCalc, .countN, .finish .ok]) ∧
      c.iniLocs.acc = 0#8 + c0 + c1 + c2 + c3 ∧ c.rspLocs.acc = 0#8 + c0 + c1 + c2 + c3 ∧ c.rspLocs.n = 4#16 ∧
      c.rspBuf = frame c0 c1 c2 c3 := by
  rw [sendCmdProg_eq_sends, rspReadCksumProg_four]
  have hopen := (Duet.opening (frame c0 c1 c2 c3) env).opens float
    (iniSends 0 (iniOpens 1 (iniSends 1 (iniOpens 2 (iniSends 2 (iniOpens 3 (iniSends 3 iniTakesAck))))))).tail
    (.takeDone true :: .takeSh :: (pollHs false ++ .driveHs false :: .storeB 0 :: .addB ::
      rspTakes 1 (rspTakes 2 (rspTakes 3 rspSendsAck))))
  have hbyte0 := State.pairs_add (Duet.byte _ float _ _ .wr _ _ _ _) hopen
  have hnext1 := State.pairs_add (Duet.nextByte _ float _ 0 _ _ _) hbyte0
  have hbyte1 := State.pairs_add (Duet.byte _ float _ _ .wr _ _ _ _) hnext1
  have hnext2 := State.pairs_add (Duet.nextByte _ float _ 1 _ _ _) hbyte1
  have hbyte2 := State.pairs_add (Duet.byte _ float _ _ .wr _ _ _ _) hnext2
  have hnext3 := State.pairs_add (Duet.nextByte _ float _ 2 _ _ _) hbyte2
  have hbyte3 := State.pairs_add (Duet.byte _ float _ _ .wr _ _ _ _) hnext3
  have hturn := State.pairs_add (Duet.turnsAround _ float _ 3 _ _ _) hbyte3
  have hack := State.pairs_add (Duet.byte _ float _ _ .rd _ _ _ _) hturn
  exact ⟨_, _, hack, rfl, rfl, rfl, rfl⟩

/-- The two blocks of R295's pair, before either accepts its command. -/
def pairIni (m : Memory) : Block := { Block.reset (.default .initiator) true ⟨.near, 0⟩ with
  buf := m
  regs.prepoll := 0#16
  regs.byteSettle := 0#16
  regs.clkdiv := 6#16 }
def pairRsp : Block := { Block.reset (.default .responder) true ⟨.far, 0⟩ with regs.prepoll := 0#16 }

/-- The responder waits and the initiator accepts SEND_CMD. -/
theorem exec_pair (m : Memory) (env : List Event) {s1 : State}
    (h : exec (.rspReadCksum 4#16 false) ⟨pairIni m, some pairRsp, false, .rest, 0, [], .far, []⟩ = .next s1) :
    exec (.sendCmd 0#16 false) { s1 with port := .near, env := env } =
      .next (State.runWhile .near env ((Duet.opening m env).start sendCmdProg (rspReadCksumProg 4))) := by
  rw [exec_of_readyFor (b := pairRsp) ⟨⟨rfl, rfl, rfl⟩, rfl⟩] at h
  cases h
  rw [exec_of_readyFor (b := pairIni m) ⟨⟨rfl, rfl, rfl⟩, rfl⟩]
  simp only [programOf, State.runWhile, sendCmdProg_eq_sends, rspReadCksumProg_four, show (4#16).toNat = 4 from rfl]
  refine congrArg (fun s => Host.Outcome.next (State.runWhile .near env s)) ?_
  generalize iniOpens 0 _ = ls
  generalize rspTakes 0 _ = rs
  cbv

/-- A block with DONE set, ERR clear and an OK result has completed. -/
theorem Block.finishedWith_of_ok {b : Block} {r : Result} {op : BitVec 5} (hidle : b.busy = false)
    (hresult : b.regs.result = r) (hcode : r.code = .ok) (hevents : b.regs.events = 1#5) (hop : b.regs.statusOp = op) :
    b.finishedWith r op := by
  refine ⟨hidle, hresult, ?_, ?_, hop⟩
  · rw [Block.event, hevents]; rfl
  · rw [Block.event, hevents, hcode]; rfl

/-- Settles O56: the two blocks step in turn through four bytes, the ack and both endings, whatever the four bytes are. -/
theorem matchedSendCmdAndRspReadCksum : Obligations.MatchedSendCmdAndRspReadCksum := by
  intro c0 c1 c2 c3 float s1 ini rsp h1
  obtain ⟨c, v, hpairs, hini, hrsp, hn, hbuf⟩ := Duet.frame_crosses float c0 c1 c2 c3 (lockstep float 1100)
  obtain ⟨u, hu, hlast⟩ := Option.bind_eq_some_iff.mp (c.ends float v _ hini)
  have hrun := (State.runWhile_lockstep 450 (State.pairs_add hu hpairs)).trans (State.runWhile_lastStep 449 hlast)
  have hsum : 0#8 + c0 + c1 + c2 + c3 = c0 + c1 + c2 + c3 := by rw [BitVec.zero_add]
  refine ⟨_, _, (exec_pair (frame c0 c1 c2 c3) _ h1).trans (congrArg _ hrun), rfl, rfl,
    Block.finishedWith_of_ok rfl rfl rfl rfl rfl, Block.finishedWith_of_ok rfl (congrArg _ hn) rfl rfl rfl,
    hsum, hsum, hrsp.trans hsum, ?_, rfl, rfl, rfl, rfl⟩
  exact (congrArg (fun m => (List.range' 0 4).map fun j => Memory.readByte m ⟨.far, 0⟩ (bufOffset j)) hbuf).trans rfl

end Sys2Proof.Machine
end
